-- ==== Sys2Proof/Word.lean ====
section
/-! DEFINITION. The word types of the block (00_scope.md R8, 10_state.md R30): every value it holds is an unsigned
integer of a stated width. -/

namespace Sys2Proof

/-- A byte: the unit of every stream transfer and of the payload buffer (R72, R77). -/
abbrev Byte := BitVec 8

/-- A 16-bit value: CRC registers, lengths, counters, buffer indices (R32 to R49, R74). -/
abbrev Half := BitVec 16

/-- A 32-bit event word (R100, R105). -/
abbrev EventWord := BitVec 32

end Sys2Proof
end

