-- ==== Sys2Proof/Config.lean ====
section
/-! DEFINITION. The configuration record `Cfg` (00_scope.md R6), its normative defaults, and the free values: what the
spec leaves open is an `opaque` constant without a body, so no proof can see its value. -/

namespace Sys2Proof

/-- What a byte other than `SYNC1` does in `SEEK_SYNC1` (R6, R163; 92_eei_decisions.md D5, OPEN). -/
inductive Sync1Mismatch where
  | rescan
  | discard
  | report
  deriving DecidableEq, Repr

/-- The configuration record (R6). The numeric bounds of `payloadCap` and `txqDepth` are checked by `Cfg.legal`. -/
structure Cfg where
  sync0         : Byte
  sync1         : Byte
  versionTx     : Byte
  crcInit       : Half
  crcPoly       : Half
  sync1Mismatch : Sync1Mismatch
  payloadCap    : Nat
  txqDepth      : Nat
  deriving DecidableEq, Repr

/-- The defaults of R6, normative for this hardware. -/
def Cfg.default : Cfg where
  sync0         := 0xAA#8
  sync1         := 0x55#8
  versionTx     := 0x01#8
  crcInit       := 0xFFFF#16
  crcPoly       := 0x1021#16
  sync1Mismatch := .rescan
  payloadCap    := 65535
  txqDepth      := 8

/-- The byte a payload-buffer cell holds that has not been written since reset: any value, an independent draw per cell
that stays until the cell is written (R39, R76; 93_implementation_defined.md I1). First argument: the draw number of the
last reset; second: the cell's index. Free value, log 4. -/
opaque Config.bufDraw : Nat → Nat → Byte

/-- What `rxb_data` shows until the first read after reset: any value, drawn once (R250; I7). Argument: the draw number
of the last reset. Free value, log 5. -/
opaque Config.rxbDraw : Nat → Byte

/-- What `txo_data` shows in a cycle with `txo_valid` = 0: the spec states no value (R110). Argument: the draw number of
the cycle. Free value, log 6. -/
opaque Config.txoDraw : Nat → Byte

end Sys2Proof
end

