-- ==== Sys2Proof/Machine/State.lean ====
section
/-! DEFINITION. The state of the block (10_state.md; the cycle-level registers of 30_encoding.md R110 to R115), the output
events (R57), the input ports (R110), the reasons a step can stop, and the state after reset (R250).

Fields that are the model's own and not the spec's state: `State.cfg` (R31: configuration, not state), `State.input`,
`State.draws`, `RxUnit.bufSeed`, `PortRegs.txoTaken`, `PortRegs.rxbRead` (logs 1 to 6). -/

namespace Sys2Proof.Machine

/-- `tx_state` (R33). -/
inductive TxState where
  /-- 0: no frame open -/
  | idle
  /-- 1: `tx_rem` payload bytes are still owed -/
  | payload
  deriving DecidableEq, Repr

/-- `rx_state`, all eight values of its 3 bits (R40): five named, and 5, 6, 7, which no run reaches (R62, I4) but a
block before its first reset may hold (R253). -/
inductive RxState where
  | seekSync0
  | seekSync1
  | header
  | payload
  | trailer
  | reserved5
  | reserved6
  | reserved7
  deriving DecidableEq, Repr

/-- `res_status`, all eight values of its 3 bits (R46): 6 and 7 are never written (I5). -/
inductive ResStatus where
  | none
  | frameOk
  | timeout
  | crcErr
  | lenErr
  | syncErr
  | reserved6
  | reserved7
  deriving DecidableEq, Repr

/-- `usage_code`, all four values of its 2 bits (R52). -/
inductive UsageCode where
  | none
  | malformed
  | txBusy
  | txIdle
  deriving DecidableEq, Repr

/-- `rx_hdr[0..3]` (R42): version, message type, length high byte, length low byte. -/
structure Header where
  version : Byte
  msgType : Byte
  lenHi   : Byte
  lenLo   : Byte
  deriving DecidableEq, Repr

/-- The TX unit's registers (R33 to R36). -/
structure TxUnit where
  /-- `tx_state` (R33) -/
  state : TxState
  /-- `tx_rem` (R34) -/
  rem   : Half
  /-- `tx_crc` (R35) -/
  crc   : Half
  /-- `tx_out` (R36) -/
  out   : List Byte
  deriving DecidableEq, Repr

/-- The RX unit's registers and payload buffer (R39 to R45). -/
structure RxUnit where
  /-- `rx_state` (R40) -/
  state   : RxState
  /-- `rx_idx` (R41) -/
  idx     : Half
  /-- `rx_hdr` (R42) -/
  hdr     : Header
  /-- `rx_len` (R43) -/
  len     : Half
  /-- `rx_crc` (R44) -/
  crc     : Half
  /-- `rx_trl_hi` (R45) -/
  trlHi   : Byte
  /-- `rx_buf` (R39): the cells written since reset, as (index, byte), indices strictly rising -/
  buf     : List Host.Cell
  /-- MODEL'S OWN: the draw number of the last reset, from which the cells not yet written come (log 4) -/
  bufSeed : Nat
  deriving DecidableEq, Repr

/-- The RX result registers (R46 to R49). -/
structure ResRegs where
  /-- `res_status` (R46) -/
  status  : ResStatus
  /-- `res_stage` (R47) -/
  stage   : RxState
  /-- `res_version` (R48) -/
  version : Byte
  /-- `res_type` (R48) -/
  msgType : Byte
  /-- `res_len` (R48) -/
  len     : Half
  /-- `res_crc_rx` (R49) -/
  crcRx   : Half
  /-- `res_crc_calc` (R49) -/
  crcCalc : Half
  deriving DecidableEq, Repr

/-- The usage-error flags (R51, R52). -/
structure UsageFlags where
  /-- `usage_err` (R51) -/
  err  : Bool
  /-- `usage_code` (R52) -/
  code : UsageCode
  deriving DecidableEq, Repr

/-- The cycle-level registers (R110 to R115). Only a port cycle changes them (log 9). -/
structure PortRegs where
  /-- the TX output queue, oldest byte first (R112) -/
  txq      : List Byte
  /-- MODEL'S OWN: the bytes the transport has taken from `txo_data`, oldest first (R112; log 3) -/
  txoTaken : List Byte
  /-- `rx_done` (R115) -/
  rxDone   : Bool
  /-- `rxb_data` (R114), as last loaded -/
  rxbData  : Byte
  /-- MODEL'S OWN: `rxb_data` has been loaded since the last reset (I7; log 5) -/
  rxbRead  : Bool
  deriving DecidableEq, Repr

/-- The output events (R57). -/
inductive OutEvent where
  | txByte (b : Byte)
  | rxFrameOk (version msgType : Byte) (payload : List Byte)
  | rxCrcErr (version msgType : Byte) (len crcRx crcCalc : Half)
  | rxLenErr (version msgType : Byte) (len : Half)
  | rxSyncErr (b : Byte)
  | rxTimeout (stage : RxState)
  | usageErr (word : EventWord) (code : UsageCode)
  deriving DecidableEq, Repr

/-- The input ports in one clock cycle (R110). `clk` is the step itself. -/
structure PortIn where
  rst          : Bool
  crcInit      : Bool
  crcEn        : Bool
  crcDin       : Byte
  txStartValid : Bool
  txType       : Byte
  txLen        : Half
  txPlValid    : Bool
  txPlData     : Byte
  txoReady     : Bool
  rxiValid     : Bool
  rxiData      : Byte
  rxiTimeout   : Bool
  rxbAddr      : Half
  errClr       : Bool
  deriving DecidableEq, Repr

/-- One transaction of the environment: an event word (R10, R100) or a clock cycle's input ports (R110). -/
inductive Input where
  | word (w : EventWord)
  | cycle (p : PortIn)
  deriving DecidableEq, Repr

/-- The state of the machine. The spec's three units share nothing but the usage flags (R60), so each is a record. -/
structure State where
  /-- MODEL'S OWN: the configuration the block was built with (R6); nothing changes it (R31; log 1) -/
  cfg    : Cfg
  /-- `crc_gen` (R32) -/
  crcGen : Half
  tx     : TxUnit
  rx     : RxUnit
  res    : ResRegs
  usage  : UsageFlags
  port   : PortRegs
  /-- the output trace, oldest event first (R57) -/
  trace  : List OutEvent
  /-- MODEL'S OWN: the transactions still to come, oldest first (R11, R31; log 2) -/
  input  : List Input
  /-- MODEL'S OWN: the counter of free values (log 4, log 6) -/
  draws  : Nat
  deriving DecidableEq, Repr

/-- Why the machine stops with a fault. Every one marks a state that breaks R62 (or the precondition of `BufWrite`),
which no run from reset reaches, and which "must fault rather than pick a behaviour" (R62; I4, I5). All are SAFE: the
model stops where the spec gives no behaviour. -/
inductive Fault where
  /-- `rx_state` is 5, 6 or 7 (R62 item 1, R160). Raised by the guard of a step and by `rx.byte`, `rx.timeout`. Safe. -/
  | rxStateUnreachable
  /-- `rx_idx` is outside the range of its state (R62 items 2 to 5). Raised by the guard and by `rx.byte`. Safe. -/
  | rxIdxUnreachable
  /-- `rx_len` is 0 or above `PAYLOAD_CAP` in `PAYLOAD` (R62 item 4). Raised by the guard. Safe. -/
  | rxLenUnreachable
  /-- `rx_crc` is not the CRC of the bytes received (R62 items 3 to 5). Raised by the guard. Safe. -/
  | rxCrcUnreachable
  /-- `tx_state` and `tx_rem` disagree (R62 item 6). Raised by the guard and by `tx.byte`. Safe. -/
  | txRemUnreachable
  /-- `res_status` is 6, 7, or a code the configuration excludes (R62 item 7, I5). Raised by the guard. Safe. -/
  | resStatusUnreachable
  /-- `BufWrite` at an index at or above `PAYLOAD_CAP`, against its precondition (R75). Raised by `rx.byte`. Safe. -/
  | bufWriteOutOfRange
  deriving DecidableEq, Repr

/-- Why the model refuses. -/
inductive Refusal where
  /-- The instruction has no meaning in this model yet: raised by an arm of `exec` only. Safe. No arm does. -/
  | notModelled (mnemonic : String)
  /-- The configuration is not legal: "the model rejects the configuration" (R7, I15). Raised by every step. Safe. -/
  | illegalConfig
  deriving DecidableEq, Repr

/-- The state right after reset under configuration `c` (R250): "`reset : Cfg → State`". -/
def State.resetOf (c : Cfg) : State where
  cfg    := c
  crcGen := c.crcInit
  tx     := { state := .idle, rem := 0#16, crc := c.crcInit, out := [] }
  rx     := { state := .seekSync0, idx := 0#16, hdr := ⟨0#8, 0#8, 0#8, 0#8⟩, len := 0#16, crc := c.crcInit,
              trlHi := 0#8, buf := [], bufSeed := 0 }
  res    := { status := .none, stage := .seekSync0, version := 0#8, msgType := 0#8, len := 0#16, crcRx := 0#16,
              crcCalc := 0#16 }
  usage  := { err := false, code := .none }
  port   := { txq := [], txoTaken := [], rxDone := false, rxbData := 0#8, rxbRead := false }
  trace  := []
  input  := []
  draws  := 1

/-- The machine right after reset, under the normative defaults (R6, R250). -/
def State.reset : State := State.resetOf Cfg.default

end Sys2Proof.Machine
end

