-- ==== Sys2Proof/Machine/Ops.lean ====
section
/-! DEFINITION. The named operations over registers and the payload buffer: field updates of State, `BufWrite` and
`BufRead` (20_memory.md R75, R76), `emit`, `emit_tx` (00_scope.md R9), and the two ways an event records a condition,
which stand in the place of taking an exception (60_exceptions.md R235): `raise UsageError` (R222) and the RX outcome
action (42_decoder.md R176). There is no return from either (R236). -/

namespace Sys2Proof.Machine

/-! Updates of one field of State. -/

/-- `s.crc_gen <- v` -/
def State.setCrcGen (s : State) (v : Half) : State := { s with crcGen := v }
/-- The TX unit's registers become `u`. -/
def State.setTx (s : State) (u : TxUnit) : State := { s with tx := u }
/-- The RX unit's registers become `u`. -/
def State.setRx (s : State) (u : RxUnit) : State := { s with rx := u }
/-- The result registers become `r`. -/
def State.setRes (s : State) (r : ResRegs) : State := { s with res := r }
/-- The usage flags become `f`. -/
def State.setUsage (s : State) (f : UsageFlags) : State := { s with usage := f }
/-- The cycle-level registers become `q`. -/
def State.setPort (s : State) (q : PortRegs) : State := { s with port := q }
/-- The transactions still to come become `l`. -/
def State.setInput (s : State) (l : List Input) : State := { s with input := l }
/-- The counter of free values moves on by one. -/
def State.nextDraw (s : State) : State := { s with draws := s.draws + 1 }
/-- `emit(ev)`, for several events in order (R9, R57). -/
def State.emit (s : State) (evs : List OutEvent) : State := { s with trace := s.trace ++ evs }

/-! The payload buffer: a list of the cells written since reset, indices strictly rising. -/

/-- The byte written at index `i`, if any was. An unlisted index is a cell not written since reset. -/
def bufFind : List Host.Cell → Nat → Option Byte
  | [], _ => none
  | (a, b) :: m, i => if a = i then some b else bufFind m i

/-- The list with index `i` holding `b`, in canonical form. -/
def bufPut : List Host.Cell → Nat → Byte → List Host.Cell
  | [], i, b => [(i, b)]
  | (a, c) :: m, i, b =>
    if i < a then (i, b) :: (a, c) :: m
    else if i = a then (i, b) :: m
    else (a, c) :: bufPut m i b

/-- Every listed index is above `lo` and below `cap`, and they rise strictly. -/
def bufRises (cap : Nat) : Nat → List Host.Cell → Bool
  | _, [] => true
  | lo, (a, _) :: m => decide (lo ≤ a) && decide (a < cap) && bufRises cap (a + 1) m

/-- The canonical form of the payload buffer: indices strictly rising, each below the capacity. -/
def Memory.wf (cap : Nat) (m : List Host.Cell) : Bool := bufRises cap 0 m

/-- `BufWrite(i, b)` (R75): precondition `i < Cfg.PAYLOAD_CAP`; no other cell changes. -/
def bufWrite (cfg : Cfg) (u : RxUnit) (i : Nat) (b : Byte) : Except Fault RxUnit :=
  if i < cfg.payloadCap then .ok { u with buf := bufPut u.buf i b } else .error .bufWriteOutOfRange

/-- `BufRead(a)` (R76): below the capacity the byte last written, or any byte (a free value, I1) if none was since reset;
at or above the capacity 0x00 (I10). -/
def bufRead (cfg : Cfg) (u : RxUnit) (a : Nat) : Byte :=
  if a < cfg.payloadCap then (bufFind u.buf a).getD (Config.bufDraw u.bufSeed a) else 0x00#8

/-- `[BufRead(0), ..., BufRead(n - 1)]` (R176). -/
def bufPayload (cfg : Cfg) (u : RxUnit) (n : Nat) : List Byte := (List.range n).map (bufRead cfg u)

/-! Header bytes. -/

/-- `[rx_hdr[0], ..., rx_hdr[3]]` (R42). -/
def Header.bytes (h : Header) : List Byte := [h.version, h.msgType, h.lenHi, h.lenLo]

/-- `rx_hdr[i] <- b`, for i in 0..3 (R42, R164). -/
def Header.put (h : Header) (i : Nat) (b : Byte) : Header :=
  match i with
  | 0 => { h with version := b }
  | 1 => { h with msgType := b }
  | 2 => { h with lenHi := b }
  | 3 => { h with lenLo := b }
  | _ => h

/-! Emission. -/

/-- `emit_tx(b)` for each byte in order: appended to `tx_out`, and one output event `TxByte(b)` each (R9, R36). -/
def emitTx (s : State) (bs : List Byte) : State :=
  (s.setTx { s.tx with out := s.tx.out ++ bs }).emit (bs.map .txByte)

/-! Usage errors. -/

/-- `raise UsageError(code)` for the event word `w` (R222): the two flag fields, one output event, and nothing else. -/
def raiseUsage (w : EventWord) (code : UsageCode) (s : State) : State :=
  (s.setUsage { err := true, code := code }).emit [.usageErr w code]

/-! RX outcomes. -/

/-- How a decode attempt ends, with what the outcome action takes (R176): the transmitted CRC, the offending byte, or
the stage a timeout met. -/
inductive RxOutcome where
  | frameOk (crcRx : Half)
  | crcErr (crcRx : Half)
  | lenErr
  | syncErr (b : Byte)
  | timeout (stage : RxState)
  deriving DecidableEq, Repr

/-- The code an outcome puts into `res_status` (R46). -/
def RxOutcome.status : RxOutcome → ResStatus
  | .frameOk _ => .frameOk
  | .crcErr _ => .crcErr
  | .lenErr => .lenErr
  | .syncErr _ => .syncErr
  | .timeout _ => .timeout

/-- The state an outcome puts into `res_stage` (R47). -/
def RxOutcome.stage : RxOutcome → RxState
  | .frameOk _ => .trailer
  | .crcErr _ => .trailer
  | .lenErr => .header
  | .syncErr _ => .seekSync1
  | .timeout st => st

/-- The result registers after an outcome (R50, R176): `u` is the RX unit as it ends the attempt. -/
def outcomeRes (o : RxOutcome) (u : RxUnit) (r : ResRegs) : ResRegs :=
  let r := { r with status := o.status, stage := o.stage }
  match o with
  | .frameOk x =>
    { r with version := u.hdr.version, msgType := u.hdr.msgType, len := u.len, crcRx := x, crcCalc := u.crc }
  | .crcErr x =>
    { r with version := u.hdr.version, msgType := u.hdr.msgType, len := u.len, crcRx := x, crcCalc := u.crc }
  | .lenErr => { r with version := u.hdr.version, msgType := u.hdr.msgType, len := u.len }
  | .syncErr _ => r
  | .timeout _ => r

/-- The output event of an outcome (R176). -/
def outcomeEvent (cfg : Cfg) (o : RxOutcome) (u : RxUnit) : OutEvent :=
  match o with
  | .frameOk _ => .rxFrameOk u.hdr.version u.hdr.msgType (bufPayload cfg u u.len.toNat)
  | .crcErr x => .rxCrcErr u.hdr.version u.hdr.msgType u.len x u.crc
  | .lenErr => .rxLenErr u.hdr.version u.hdr.msgType u.len
  | .syncErr b => .rxSyncErr b
  | .timeout st => .rxTimeout st

/-- `outcome(code, stage, x)` (R176): result registers, one output event, and the decoder back in `SEEK_SYNC0` with
`rx_idx` 0. -/
def takeOutcome (o : RxOutcome) (s : State) : State :=
  ((s.setRes (outcomeRes o s.rx s.res)).emit [outcomeEvent s.cfg o s.rx]).setRx
    { s.rx with state := .seekSync0, idx := 0#16 }

/-! Sequencing. -/

/-- Go on with the next state, if there is one. -/
def andThen (o : Host.Outcome State Fault Refusal) (k : State → Host.Outcome State Fault Refusal) :
    Host.Outcome State Fault Refusal :=
  match o with
  | .next s => k s
  | .fault f => .fault f
  | .refused r => .refused r

end Sys2Proof.Machine
end

