-- ==== Sys2Proof/Machine/Flags.lean ====
section
/-! DEFINITION. The status flags and read-only views (10_state.md R37, R53 to R55, R61): numeric codes of the state
machines and of the result, `tx_busy`, `crc_out`, `STATUS`. No view has a side effect (R78). -/

namespace Sys2Proof.Machine

/-- The 3-bit encoding of `rx_state` and `res_stage` (R40, R47). -/
def RxState.code : RxState → BitVec 3
  | .seekSync0 => 0
  | .seekSync1 => 1
  | .header => 2
  | .payload => 3
  | .trailer => 4
  | .reserved5 => 5
  | .reserved6 => 6
  | .reserved7 => 7

/-- The 1-bit encoding of `tx_state` (R33). -/
def TxState.code : TxState → BitVec 1
  | .idle => 0
  | .payload => 1

/-- The 3-bit encoding of `res_status` (R46). -/
def ResStatus.code : ResStatus → BitVec 3
  | .none => 0
  | .frameOk => 1
  | .timeout => 2
  | .crcErr => 3
  | .lenErr => 4
  | .syncErr => 5
  | .reserved6 => 6
  | .reserved7 => 7

/-- The 2-bit encoding of `usage_code` (R52). -/
def UsageCode.code : UsageCode → BitVec 2
  | .none => 0
  | .malformed => 1
  | .txBusy => 2
  | .txIdle => 3

/-- `tx_busy` of the event model (R37). -/
def txBusy (s : State) : Bool := decide (s.tx.state = .payload)

/-- `tx_busy` at cycle level (R37, R112): also while the TX queue is not empty. -/
def txBusyPort (s : State) : Bool := txBusy s || !s.port.txq.isEmpty

/-- The packing of `STATUS` (R53), for a given TX_BUSY bit: bits [31:15] 0, RES_STAGE [14:12], 0, RES_STATUS [10:8], 0,
USAGE_CODE [6:5], USAGE_ERR [4], TX_BUSY [3], RX_STATE [2:0]. -/
def packStatus (busy : Bool) (s : State) : BitVec 32 :=
  0#17 ++ s.res.stage.code ++ 0#1 ++ s.res.status.code ++ 0#1 ++ s.usage.code.code ++ BitVec.ofBool s.usage.err ++
    BitVec.ofBool busy ++ s.rx.state.code

/-- Observation `STATUS` (R53). -/
def status (s : State) : BitVec 32 := packStatus (txBusy s) s

/-- The `status` port (R110), with the cycle-level `tx_busy` (DEDUCED: R53 takes the bit from R37, which gives the
cycle-level form; log 10). -/
def statusPort (s : State) : BitVec 32 := packStatus (txBusyPort s) s

/-- Observation `crc_out` (R54). -/
def crcOut (s : State) : Half := s.crcGen

/-- The usage flags cleared (R201). -/
def clearUsage (s : State) : State := s.setUsage { err := false, code := .none }

end Sys2Proof.Machine
end

