-- ==== Sys2Proof/Machine/Control.lean ====
section
/-! DEFINITION. Control events (43_control.md): `NOP` (R200), `ERR_CLR` (R201), malformed words (R202). -/

namespace Sys2Proof.Machine

/-- `NOP` (R200): nothing. -/
def execNop (s : State) : Host.Outcome State Fault Refusal := .next s

/-- `ERR_CLR` (R201): `usage_err <- 0; usage_code <- UC_NONE`. -/
def execErrClr (s : State) : Host.Outcome State Fault Refusal := .next (clearUsage s)

/-- A malformed word (R202): `raise UsageError(UC_MALFORMED)` with the word. -/
def execMalformed (w : EventWord) (s : State) : Host.Outcome State Fault Refusal := .next (raiseUsage w .malformed s)

end Sys2Proof.Machine
end

