-- ==== Sys2Proof/Machine/Crc.lean ====
section
/-! DEFINITION. The CRC function (40_crc.md R120, R121), used by all three units. -/

namespace Sys2Proof.Machine

/-- One iteration of the loop of R120: the bit tested is bit 15 before the shift. -/
def crcShift (poly c : Half) : Half := if c.msb then (c <<< 1) ^^^ poly else c <<< 1

/-- `k` iterations of the loop of R120. -/
def crcShifts (poly : Half) : Nat → Half → Half
  | 0, c => c
  | k + 1, c => crcShifts poly k (crcShift poly c)

/-- `crc_step(c, b)` (R120): the byte into the high byte of the register, then eight iterations. -/
def crcStep (cfg : Cfg) (c : Half) (b : Byte) : Half := crcShifts cfg.crcPoly 8 (c ^^^ (b.setWidth 16 <<< 8))

/-- The register after a sequence of bytes: `fold crc_step` (R121, R122). -/
def crcFold (cfg : Cfg) (c : Half) (bs : List Byte) : Half := bs.foldl (crcStep cfg) c

/-- `crc16(bs)` (R121): from `Cfg.CRC_INIT`, no final XOR. -/
def crc16 (cfg : Cfg) (bs : List Byte) : Half := crcFold cfg cfg.crcInit bs

end Sys2Proof.Machine
end

