-- ==== Sys2Proof/Machine/CrcUnit.lean ====
section
/-! DEFINITION. The events of the CRC generator (40_crc.md R123, R124). -/

namespace Sys2Proof.Machine

/-- `CRC_INIT` (R123): `crc_gen <- Cfg.CRC_INIT`. -/
def execCrcInit (s : State) : Host.Outcome State Fault Refusal := .next (s.setCrcGen s.cfg.crcInit)

/-- `CRC_BYTE b` (R124): `crc_gen <- crc_step(crc_gen, b)`. -/
def execCrcByte (b : Byte) (s : State) : Host.Outcome State Fault Refusal :=
  .next (s.setCrcGen (crcStep s.cfg s.crcGen b))

end Sys2Proof.Machine
end

