-- ==== Sys2Proof/Machine/Operands.lean ====
section
/-! DEFINITION. Bit fields of the event word (30_encoding.md R100, R102) and byte order on the wire (20_memory.md R70,
R73). Every operand form of the block is here. -/

namespace Sys2Proof.Machine

/-- `OP` = word[31:28] (R100). -/
def opField (w : EventWord) : BitVec 4 := w.extractLsb' 28 4

/-- `Z` = word[27:24], must be 0 (R100). -/
def zField (w : EventWord) : BitVec 4 := w.extractLsb' 24 4

/-- `T` = word[23:16]: the message type of `TX_START` (R100, R102). -/
def typeField (w : EventWord) : Byte := w.extractLsb' 16 8

/-- `D` = word[15:0]: the length of `TX_START` (R100, R102). -/
def lenField (w : EventWord) : Half := w.extractLsb' 0 16

/-- `b` = word[7:0]: the operand of the byte events (R102). -/
def byteField (w : EventWord) : Byte := w.extractLsb' 0 8

/-- `v[15:8]`, the byte at the lower wire offset (R70). -/
def hi8 (v : Half) : Byte := v.extractLsb' 8 8

/-- `v[7:0]`, the byte at the higher wire offset (R70). -/
def lo8 (v : Half) : Byte := v.extractLsb' 0 8

/-- `{hi, lo}`, the value of two wire bytes, the first being the high one (R9, R70). -/
def be16 (hi lo : Byte) : Half := hi ++ lo

end Sys2Proof.Machine
end

