-- ==== Sys2Proof/Machine/Rx.lean ====
section
/-! DEFINITION. The RX unit's events (42_decoder.md R160 to R176). One byte takes the RX unit to its registers before the
outcome action, and to the outcome, if the byte ends the attempt. -/

namespace Sys2Proof.Machine

/-- What one byte does to the RX unit: its registers, and the outcome the byte ends the attempt with. -/
abbrev RxStep := Except Fault (RxUnit × Option RxOutcome)

/-- `SEEK_SYNC0` (R161). -/
def rxSeekSync0 (cfg : Cfg) (b : Byte) (u : RxUnit) : RxStep :=
  if b = cfg.sync0 then .ok ({ u with state := .seekSync1 }, none) else .ok (u, none)

/-- A byte other than `SYNC1` in `SEEK_SYNC1`, by `Cfg.SYNC1_MISMATCH` (R163). -/
def rxSync1Mismatch (cfg : Cfg) (b : Byte) (u : RxUnit) : RxUnit × Option RxOutcome :=
  match cfg.sync1Mismatch with
  | .rescan => if b = cfg.sync0 then (u, none) else ({ u with state := .seekSync0 }, none)
  | .discard => ({ u with state := .seekSync0 }, none)
  | .report => (u, some (.syncErr b))

/-- `SEEK_SYNC1` (R162): the test against `SYNC1` comes first. -/
def rxSeekSync1 (cfg : Cfg) (b : Byte) (u : RxUnit) : RxStep :=
  if b = cfg.sync1 then .ok ({ u with state := .header, idx := 0#16, crc := cfg.crcInit }, none)
  else .ok (rxSync1Mismatch cfg b u)

/-- Header complete (R165, R166). -/
def rxHeaderComplete (cfg : Cfg) (u : RxUnit) : RxUnit × Option RxOutcome :=
  let u := { u with len := be16 u.hdr.lenHi u.hdr.lenLo, idx := 0#16 }
  if cfg.payloadCap < u.len.toNat then (u, some .lenErr)
  else if u.len = 0#16 then ({ u with state := .trailer }, none)
  else ({ u with state := .payload }, none)

/-- `HEADER` with `rx_idx` = i, i in 0..3 (R164); any other index is unreachable (R62 item 3). -/
def rxHeader (cfg : Cfg) (b : Byte) (u : RxUnit) : RxStep :=
  if u.idx.toNat < 4 then
    let u := { u with hdr := u.hdr.put u.idx.toNat b, crc := crcStep cfg u.crc b, idx := u.idx + 1#16 }
    if u.idx = 4#16 then .ok (rxHeaderComplete cfg u) else .ok (u, none)
  else .error .rxIdxUnreachable

/-- `PAYLOAD` with `rx_idx` = i, i < `rx_len` (R167); any other index is unreachable (R62 item 4). -/
def rxPayload (cfg : Cfg) (b : Byte) (u : RxUnit) : RxStep :=
  if u.idx < u.len then
    match bufWrite cfg u u.idx.toNat b with
    | .error f => .error f
    | .ok u =>
      let u := { u with crc := crcStep cfg u.crc b, idx := u.idx + 1#16 }
      if u.idx = u.len then .ok ({ u with state := .trailer, idx := 0#16 }, none) else .ok (u, none)
  else .error .rxIdxUnreachable

/-- The second trailer byte: verification (R173, R174). -/
def rxVerify (b : Byte) (u : RxUnit) : RxOutcome :=
  let crcRx := be16 u.trlHi b
  if crcRx = u.crc then .frameOk crcRx else .crcErr crcRx

/-- `TRAILER` with `rx_idx` = 0 (R168) or 1 (R173); any other index is unreachable (R62 item 5). -/
def rxTrailer (b : Byte) (u : RxUnit) : RxStep :=
  if u.idx = 0#16 then .ok ({ u with trlHi := b, idx := 1#16 }, none)
  else if u.idx = 1#16 then .ok (u, some (rxVerify b u))
  else .error .rxIdxUnreachable

/-- `RX_BYTE b` on the RX unit: dispatch on `rx_state` (R160). -/
def rxStep (cfg : Cfg) (b : Byte) (u : RxUnit) : RxStep :=
  match u.state with
  | .seekSync0 => rxSeekSync0 cfg b u
  | .seekSync1 => rxSeekSync1 cfg b u
  | .header => rxHeader cfg b u
  | .payload => rxPayload cfg b u
  | .trailer => rxTrailer b u
  | .reserved5 => .error .rxStateUnreachable
  | .reserved6 => .error .rxStateUnreachable
  | .reserved7 => .error .rxStateUnreachable

/-- `RX_BYTE b` (R160): the RX unit's registers, then the outcome action if the byte ends the attempt (R176). -/
def execRxByte (b : Byte) (s : State) : Host.Outcome State Fault Refusal :=
  match rxStep s.cfg b s.rx with
  | .error f => .fault f
  | .ok (u, none) => .next (s.setRx u)
  | .ok (u, some o) => .next (takeOutcome o (s.setRx u))

/-- The named RX states (R40); the others are unreachable (R62 item 1). -/
def RxState.isNamed : RxState → Bool
  | .seekSync0 => true
  | .seekSync1 => true
  | .header => true
  | .payload => true
  | .trailer => true
  | .reserved5 => false
  | .reserved6 => false
  | .reserved7 => false

/-- `RX_TIMEOUT` (R175): `outcome(TIMEOUT, rx_state)`, legal in every named state; a model meeting an unreachable
`rx_state` faults (I4). -/
def execRxTimeout (s : State) : Host.Outcome State Fault Refusal :=
  if s.rx.state.isNamed then .next (takeOutcome (.timeout s.rx.state) s) else .fault .rxStateUnreachable

end Sys2Proof.Machine
end

