-- ==== Sys2Proof/Syntax.lean ====
section
/-! DEFINITION. The events of the block (30_encoding.md R101): one constructor per row of spec/opcode_table.json; and the
assembler's source statements (R106, R107). -/

namespace Sys2Proof

/-- The eight events (R101). An operand has exactly the width its field has in the event word (R102), so no event of
this type is out of range; what the assembler must check is in `Asm.wellFormed`. -/
inductive Instr where
  /-- `NOP` (R200) -/
  | nop
  /-- `CRC_INIT` (R123) -/
  | crcInit
  /-- `CRC_BYTE b` (R124) -/
  | crcByte (b : Byte)
  /-- `TX_START type, len` (R140) -/
  | txStart (msgType : Byte) (len : Half)
  /-- `TX_BYTE b` (R142) -/
  | txByte (b : Byte)
  /-- `RX_BYTE b` (R160) -/
  | rxByte (b : Byte)
  /-- `RX_TIMEOUT` (R175) -/
  | rxTimeout
  /-- `ERR_CLR` (R201) -/
  | errClr
  deriving DecidableEq, Repr

/-- The mnemonic of R106 and of the opcode table. -/
def Instr.mnemonic : Instr → String
  | .nop => "nop"
  | .crcInit => "crc.init"
  | .crcByte _ => "crc.byte"
  | .txStart _ _ => "tx.start"
  | .txByte _ => "tx.byte"
  | .rxByte _ => "rx.byte"
  | .rxTimeout => "rx.timeout"
  | .errClr => "err.clr"

/-- The unit an event is addressed to (R60, R82); `NOP` and `ERR_CLR` are control events of none. -/
inductive CodecUnit where
  | crc
  | tx
  | rx
  | control
  deriving DecidableEq, Repr

/-- Which unit an event is addressed to (R82). -/
def Instr.unit : Instr → CodecUnit
  | .nop => .control
  | .crcInit => .crc
  | .crcByte _ => .crc
  | .txStart _ _ => .tx
  | .txByte _ => .tx
  | .rxByte _ => .rx
  | .rxTimeout => .rx
  | .errClr => .control

/-- A source statement of the assembler: a mnemonic with number operands, `.word`, or a pseudo-instruction (R106, R107).
Operands are numbers and can be out of range. -/
inductive Asm where
  | nop
  | crcInit
  | crcByte (b : Nat)
  | txStart (msgType len : Nat)
  | txByte (b : Nat)
  | rxByte (b : Nat)
  | rxTimeout
  | errClr
  /-- `.word 0xXXXXXXXX` -/
  | word (w : Nat)
  /-- `crc.bytes b1, ..., bn` -/
  | crcBytes (bs : List Nat)
  /-- `crc.of b1, ..., bn` -/
  | crcOf (bs : List Nat)
  /-- `tx.frame type, [p1, ..., pn]` -/
  | txFrame (msgType : Nat) (payload : List Nat)
  /-- `rx.bytes b1, ..., bn` -/
  | rxBytes (bs : List Nat)
  /-- `rx.frame type, [p1, ..., pn]` -/
  | rxFrame (msgType : Nat) (payload : List Nat)
  deriving DecidableEq, Repr

end Sys2Proof
end

