-- ==== Sys2Proof/Decode.lean ====
section
/-! DEFINITION. Decoding and encoding of event words (30_encoding.md R100 to R106). -/

namespace Sys2Proof

open Sys2Proof.Machine

/-- Why a word spells no event (R104). -/
inductive Malformed where
  /-- `OP` in 0x8..0xF -/
  | reservedOp
  /-- a defined `OP` with a nonzero must-be-zero bit -/
  | mustBeZero
  deriving DecidableEq, Repr

/-- `Event ∪ {Malformed(word)}` (R103); the word itself is the decoder's argument. -/
inductive Decoded where
  | event (i : Instr)
  | malformed (why : Malformed)
  deriving DecidableEq, Repr

/-- The event, if the word's must-be-zero bits are 0 (R103, R104). -/
def eventIf (zerosHold : Bool) (i : Instr) : Decoded :=
  if zerosHold then .event i else .malformed .mustBeZero

/-- Bits [27:8] are 0: the check on the byte events (R103). -/
def upperZero (w : EventWord) : Bool := w.extractLsb' 8 20 == 0#20

/-- The decoder, total on 32-bit words (R103). -/
def decode (w : EventWord) : Decoded :=
  match (opField w).toNat with
  | 0x0 => eventIf (w == 0x00000000#32) .nop
  | 0x1 => eventIf (w == 0x10000000#32) .crcInit
  | 0x2 => eventIf (upperZero w) (.crcByte (byteField w))
  | 0x3 => eventIf (zField w == 0#4) (.txStart (typeField w) (lenField w))
  | 0x4 => eventIf (upperZero w) (.txByte (byteField w))
  | 0x5 => eventIf (upperZero w) (.rxByte (byteField w))
  | 0x6 => eventIf (w == 0x60000000#32) .rxTimeout
  | 0x7 => eventIf (w == 0x70000000#32) .errClr
  | _ => .malformed .reservedOp

/-- The encoder: the word of each mnemonic in R106. -/
def encode : Instr → EventWord
  | .nop => 0x00000000#32
  | .crcInit => 0x10000000#32
  | .crcByte b => 0x20000000#32 ||| b.setWidth 32
  | .txStart t n => 0x30000000#32 ||| (t.setWidth 32 <<< 16) ||| n.setWidth 32
  | .txByte b => 0x40000000#32 ||| b.setWidth 32
  | .rxByte b => 0x50000000#32 ||| b.setWidth 32
  | .rxTimeout => 0x60000000#32
  | .errClr => 0x70000000#32

/-- A row of the opcode map (R101): a word is the named event exactly when `word AND mask = pattern`. -/
structure OpcodeRow where
  mnemonic : String
  mask     : EventWord
  pattern  : EventWord
  deriving DecidableEq, Repr

/-- The opcode map (R101). -/
def opcodeMap : List OpcodeRow :=
  [ ⟨"nop", 0xFFFFFFFF, 0x00000000⟩,
    ⟨"crc.init", 0xFFFFFFFF, 0x10000000⟩,
    ⟨"crc.byte", 0xFFFFFF00, 0x20000000⟩,
    ⟨"tx.start", 0xFF000000, 0x30000000⟩,
    ⟨"tx.byte", 0xFFFFFF00, 0x40000000⟩,
    ⟨"rx.byte", 0xFFFFFF00, 0x50000000⟩,
    ⟨"rx.timeout", 0xFFFFFFFF, 0x60000000⟩,
    ⟨"err.clr", 0xFFFFFFFF, 0x70000000⟩ ]

/-- The word is one of the row's words (R101). -/
def OpcodeRow.matchesWord (r : OpcodeRow) (w : EventWord) : Prop := w &&& r.mask = r.pattern

/-- The event a decoding holds, if any. -/
def Decoded.event? : Decoded → Option Instr
  | .event i => some i
  | .malformed _ => none

/-- The instruction the decoder reads from a row's word given as a number (the host's question). Every event word is
exactly 32 bits (R105); bits at and above `nbits` are 0. -/
def decodeTableWord (nbits w : Nat) : Option Instr :=
  if nbits ≤ 32 then (decode (BitVec.ofNat 32 (w % 2 ^ nbits))).event? else none

end Sys2Proof
end

