-- ==== Sys2Proof/Machine/Tx.lean ====
section
/-! DEFINITION. The TX unit's events (41_encoder.md R140 to R143). -/

namespace Sys2Proof.Machine

/-- The header the encoder emits and covers with the CRC: `[VERSION_TX, t, n[15:8], n[7:0]]` (R140). -/
def txHeader (cfg : Cfg) (t : Byte) (n : Half) : List Byte := [cfg.versionTx, t, hi8 n, lo8 n]

/-- A CRC on the wire, high byte first (R73). -/
def crcBytes (c : Half) : List Byte := [hi8 c, lo8 c]

/-- `TX_START t, n` with no frame open (R140): sync bytes and header out, `tx_crc` over the header; a frame of length 0
is completed at once, any other is open and owes `n` bytes. -/
def txOpen (t : Byte) (n : Half) (s : State) : State :=
  let h := txHeader s.cfg t n
  let c := crc16 s.cfg h
  let s := emitTx s ([s.cfg.sync0, s.cfg.sync1] ++ h)
  let s := s.setTx { s.tx with crc := c }
  if n = 0#16 then emitTx s (crcBytes c)
  else s.setTx { s.tx with rem := n, state := .payload }

/-- `TX_START t, n` (R140); in `PAYLOAD` it is the usage error `UC_TX_BUSY` (R141). -/
def execTxStart (t : Byte) (n : Half) (s : State) : Host.Outcome State Fault Refusal :=
  match s.tx.state with
  | .payload => .next (raiseUsage (encode (.txStart t n)) .txBusy s)
  | .idle => .next (txOpen t n s)

/-- `TX_BYTE b` with a frame open (R142): the byte out, into the CRC, one byte fewer owed; the trailer after the last. -/
def txPass (b : Byte) (s : State) : State :=
  let s := emitTx s [b]
  let c := crcStep s.cfg s.tx.crc b
  let s := s.setTx { s.tx with crc := c, rem := s.tx.rem - 1#16 }
  if s.tx.rem = 0#16 then
    let s := emitTx s (crcBytes c)
    s.setTx { s.tx with state := .idle }
  else s

/-- `TX_BYTE b` (R142); in `IDLE` it is the usage error `UC_TX_IDLE` (R143). `PAYLOAD` with nothing owed is unreachable
(R62 item 6). -/
def execTxByte (b : Byte) (s : State) : Host.Outcome State Fault Refusal :=
  match s.tx.state with
  | .idle => .next (raiseUsage (encode (.txByte b)) .txIdle s)
  | .payload => if s.tx.rem = 0#16 then .fault .txRemUnreachable else .next (txPass b s)

end Sys2Proof.Machine
end

