-- ==== Sys2Proof/Machine/Invariant.lean ====
section
/-! DEFINITION. The reachable-state invariants of 10_state.md R62 as a check: which of them a state breaks first. "A state
breaking them is unreachable, and a model that meets one ... must fault rather than pick a behaviour" (R62; I4, I5). -/

namespace Sys2Proof.Machine

/-- The bytes the CRC has covered when `n` payload bytes are in: the header and `rx_buf[0..n-1]` (R62 items 4, 5). -/
def rxCovered (cfg : Cfg) (u : RxUnit) (n : Nat) : List Byte := u.hdr.bytes ++ bufPayload cfg u n

/-- The fault, unless the condition holds. -/
def breachUnless (ok : Bool) (f : Fault) (rest : Option Fault) : Option Fault := if ok then rest else some f

/-- What the RX unit breaks of R62 items 1 to 5. -/
def rxBreach (cfg : Cfg) (u : RxUnit) : Option Fault :=
  match u.state with
  | .seekSync0 => breachUnless (decide (u.idx = 0#16)) .rxIdxUnreachable none
  | .seekSync1 => breachUnless (decide (u.idx = 0#16)) .rxIdxUnreachable none
  | .header =>
    breachUnless (decide (u.idx.toNat ≤ 3)) .rxIdxUnreachable
      (breachUnless (decide (u.crc = crc16 cfg (u.hdr.bytes.take u.idx.toNat))) .rxCrcUnreachable none)
  | .payload =>
    breachUnless (decide (1 ≤ u.len.toNat ∧ u.len.toNat ≤ cfg.payloadCap)) .rxLenUnreachable
      (breachUnless (decide (u.idx < u.len)) .rxIdxUnreachable
        (breachUnless (decide (u.crc = crc16 cfg (rxCovered cfg u u.idx.toNat))) .rxCrcUnreachable none))
  | .trailer =>
    breachUnless (decide (u.idx.toNat ≤ 1)) .rxIdxUnreachable
      (breachUnless (decide (u.crc = crc16 cfg (rxCovered cfg u u.len.toNat))) .rxCrcUnreachable none)
  | .reserved5 => some .rxStateUnreachable
  | .reserved6 => some .rxStateUnreachable
  | .reserved7 => some .rxStateUnreachable

/-- What the TX unit breaks of R62 item 6: `IDLE` exactly when `tx_rem` = 0. -/
def txBreach (u : TxUnit) : Option Fault :=
  breachUnless (decide (u.state = .idle ↔ u.rem = 0#16)) .txRemUnreachable none

/-- What `res_status` breaks of R62 item 7 and I5. -/
def resBreach (cfg : Cfg) (r : ResRegs) : Option Fault :=
  match r.status with
  | .none => none
  | .frameOk => none
  | .timeout => none
  | .crcErr => none
  | .lenErr => breachUnless (decide (cfg.payloadCap < 65535)) .resStatusUnreachable none
  | .syncErr => breachUnless (decide (cfg.sync1Mismatch = .report)) .resStatusUnreachable none
  | .reserved6 => some .resStatusUnreachable
  | .reserved7 => some .resStatusUnreachable

/-- The first invariant of R62 the state breaks, if it breaks one. -/
def breach (s : State) : Option Fault :=
  match rxBreach s.cfg s.rx with
  | some f => some f
  | none =>
    match txBreach s.tx with
    | some f => some f
    | none => resBreach s.cfg s.res

end Sys2Proof.Machine
end

