-- ==== Sys2Proof/WellFormed.lean ====
section
/-! DEFINITION. The checks the spec asks for: a configuration is legal (00_scope.md R7, 93_implementation_defined.md
I15), and an assembler statement's operands are in range (30_encoding.md R106, R107). An `Instr` needs no check: its
operands have their fields' widths. -/

namespace Sys2Proof

/-- A configuration the model accepts (R7, I15): the sync bytes differ, `PAYLOAD_CAP` is 1..65535, `TXQ_DEPTH` is at
least 8. `CRC_POLY` is not restricted (90_conflicts.md C12). -/
def Cfg.legal (c : Cfg) : Bool :=
  decide (c.sync0 ≠ c.sync1) && decide (1 ≤ c.payloadCap ∧ c.payloadCap ≤ 65535) && decide (8 ≤ c.txqDepth)

/-- A byte operand: at most 0xFF (R106). -/
def byteInRange (b : Nat) : Bool := decide (b ≤ 0xFF)

/-- A 16-bit operand: at most 0xFFFF (R106). -/
def halfInRange (n : Nat) : Bool := decide (n ≤ 0xFFFF)

/-- "An operand out of range (b > 0xFF, type > 0xFF, len > 0xFFFF) is an assembly error, not a word" (R106); a
`tx.frame` carries at most 65535 payload bytes (R107). -/
def Asm.wellFormed : Asm → Bool
  | .nop => true
  | .crcInit => true
  | .crcByte b => byteInRange b
  | .txStart t n => byteInRange t && halfInRange n
  | .txByte b => byteInRange b
  | .rxByte b => byteInRange b
  | .rxTimeout => true
  | .errClr => true
  | .word w => decide (w < 2 ^ 32)
  | .crcBytes bs => bs.all byteInRange
  | .crcOf bs => bs.all byteInRange
  | .txFrame t p => byteInRange t && p.all byteInRange && halfInRange p.length
  | .rxBytes bs => bs.all byteInRange
  | .rxFrame t p => byteInRange t && p.all byteInRange && halfInRange p.length

end Sys2Proof
end

