-- ==== Sys2Proof/Machine/Cycle.lean ====
section
/-! DEFINITION. Taking one transaction: an event word (30_encoding.md R103, 43_control.md R202), or one clock cycle at the
ports (30_encoding.md R110 to R116; 60_exceptions.md R230 to R233; 70_reset_and_hazards.md R250 to R252, R270 to R274). -/

namespace Sys2Proof.Machine

/-! The event-word interface. -/

/-- An event word applied: decoding comes first (R228), then the event's meaning, or the usage error of R202. -/
def applyWord (w : EventWord) (s : State) : Host.Outcome State Fault Refusal :=
  match decode w with
  | .event i => exec i s
  | .malformed _ => execMalformed w s

/-- Events applied one after another, each complete before the next (R80). -/
def performAll : List Instr → State → Host.Outcome State Fault Refusal
  | [], s => .next s
  | i :: is, s => andThen (exec i s) (performAll is)

/-! The cycle-level ports. -/

/-- `free`: the number of empty entries of the TX queue (R112). -/
def txqFree (s : State) : Nat := s.cfg.txqDepth - s.port.txq.length

/-- `tx_start_ready` (R112); 0 while `rst` = 1 (R252). -/
def txStartReady (p : PortIn) (s : State) : Bool := !p.rst && decide (8 ≤ txqFree s)

/-- `tx_pl_ready` (R112); 0 while `rst` = 1 (R252). -/
def txPlReady (p : PortIn) (s : State) : Bool := !p.rst && decide (3 ≤ txqFree s) && !p.txStartValid

/-- The event, if its condition holds in this cycle. -/
def eventWhen (c : Bool) (i : Instr) : List Instr := if c then [i] else []

/-- The TX event of a cycle: at most one of the two (R112, R232). -/
def txEvents (p : PortIn) (s : State) : List Instr :=
  eventWhen (p.txStartValid && txStartReady p s) (.txStart p.txType p.txLen) ++
    eventWhen (p.txPlValid && txPlReady p s) (.txByte p.txPlData)

/-- The RX event of a cycle: a byte beats a timeout (R113, R231). -/
def rxEvents (p : PortIn) : List Instr :=
  eventWhen p.rxiValid (.rxByte p.rxiData) ++ eventWhen (!p.rxiValid && p.rxiTimeout) .rxTimeout

/-- The events of a cycle without reset, in the order of R273: `ERR_CLR`, the CRC unit (`CRC_INIT` before `CRC_BYTE`,
R111), the TX unit, the RX unit. -/
def portEvents (p : PortIn) (s : State) : List Instr :=
  eventWhen p.errClr .errClr ++ eventWhen p.crcInit .crcInit ++ eventWhen p.crcEn (.crcByte p.crcDin) ++
    txEvents p s ++ rxEvents p

/-- The output event is an RX outcome (R57, R115). -/
def OutEvent.isRxOutcome : OutEvent → Bool
  | .txByte _ => false
  | .rxFrameOk _ _ _ => true
  | .rxCrcErr _ _ _ _ _ => true
  | .rxLenErr _ _ _ => true
  | .rxSyncErr _ => true
  | .rxTimeout _ => true
  | .usageErr _ _ => false

/-- The cycle-level registers after the edge: `before` is the state before the edge, `after` the state the cycle's events
leave. The queue loses its oldest byte if the transport takes it and gains the bytes emitted (R112, R272); `rx_done`
tells whether an outcome was recorded at this edge (R115); `rxb_data` is loaded from the buffer before the edge (R114). -/
def edgePorts (p : PortIn) (before after : State) : PortRegs :=
  let taken := if p.txoReady then 1 else 0
  { txq := before.port.txq.drop taken ++ after.tx.out.drop before.tx.out.length
    txoTaken := before.port.txoTaken ++ before.port.txq.take taken
    rxDone := (after.trace.drop before.trace.length).any OutEvent.isRxOutcome
    rxbData := bufRead before.cfg before.rx p.rxbAddr.toNat
    rxbRead := true }

/-- The edge of a cycle with `rst` = 1 (R250, R251): every field of the spec at its reset value, no event, no output
event. The buffer's cells are unspecified again: none is listed and they come from a new draw (R250, I1; log 4). What
the transport has taken stays sent (R251; log 3). -/
def resetEdge (s : State) : State :=
  let r := State.resetOf s.cfg
  { r with
    rx := { r.rx with bufSeed := s.draws }
    port := { r.port with txoTaken := s.port.txoTaken }
    trace := s.trace
    input := s.input
    draws := s.draws + 1 }

/-- One clock cycle without reset (R110, R273). -/
def eventEdge (p : PortIn) (s : State) : Host.Outcome State Fault Refusal :=
  andThen (performAll (portEvents p s) s) fun t => .next ((t.setPort (edgePorts p s t)).nextDraw)

/-- The output ports of a cycle (R110). The registered ones show the state; the two `ready` ones are combinational from
the queue's fill level and the inputs (R271). -/
structure PortOut where
  crcOut       : Half
  txStartReady : Bool
  txPlReady    : Bool
  txoValid     : Bool
  txoData      : Byte
  txBusy       : Bool
  rxDone       : Bool
  res          : ResRegs
  rxbData      : Byte
  usageErr     : Bool
  usageCode    : BitVec 2
  status       : BitVec 32
  deriving DecidableEq, Repr

/-- `txo_data` (R110, R112): the queue's oldest byte; a free value while `txo_valid` = 0 (log 6). -/
def txoData (s : State) : Byte :=
  match s.port.txq with
  | b :: _ => b
  | [] => Config.txoDraw s.draws

/-- `rxb_data` (R114): as last loaded; a free value until the first read after reset (R250, I7; log 5). -/
def rxbDataPort (s : State) : Byte := if s.port.rxbRead then s.port.rxbData else Config.rxbDraw s.rx.bufSeed

/-- The output ports in a cycle with inputs `p` (R110, R271). -/
def portOut (p : PortIn) (s : State) : PortOut where
  crcOut       := crcOut s
  txStartReady := txStartReady p s
  txPlReady    := txPlReady p s
  txoValid     := !s.port.txq.isEmpty
  txoData      := txoData s
  txBusy       := txBusyPort s
  rxDone       := s.port.rxDone
  res          := s.res
  rxbData      := rxbDataPort s
  usageErr     := s.usage.err
  usageCode    := s.usage.code.code
  status       := statusPort s

/-! One transaction. -/

/-- The transition, unless the state breaks R62 (log 7). -/
def unlessBroken (s : State) (t : Host.Outcome State Fault Refusal) : Host.Outcome State Fault Refusal :=
  match breach s with
  | some f => .fault f
  | none => t

/-- Take the next transaction. With none pending, nothing happens: "a cycle with no port activity is a `NOP`" (R244). A
reset cycle is legal from every state (R253, R230); every other transaction meets only states R62 allows. -/
def takeInput (s : State) : Host.Outcome State Fault Refusal :=
  match s.input with
  | [] => unlessBroken s (execNop s)
  | .word w :: rest => unlessBroken s (applyWord w (s.setInput rest))
  | .cycle p :: rest =>
    if p.rst then .next (resetEdge (s.setInput rest)) else unlessBroken s (eventEdge p (s.setInput rest))

/-- One step, under a configuration the model accepts (R7, I15). -/
def advance (s : State) : Host.Outcome State Fault Refusal :=
  if s.cfg.legal then takeInput s else .refused .illegalConfig

/-- The word whose bits below `nbits` are those of `w` and whose other bits are 0, as the next transaction. -/
def placeWord (s : State) (nbits w : Nat) : State :=
  s.setInput (.word (BitVec.ofNat 32 (w % 2 ^ nbits)) :: s.input)

end Sys2Proof.Machine
end

