-- ==== Sys2Proof/Machine/Step.lean ====
section
/-! DEFINITION. The step: one transaction of the environment (00_scope.md R10, R11). -/

namespace Sys2Proof.Machine

/-- One transaction applied, atomically and completely (R10, R80). -/
def step (s : State) : Host.Outcome State Fault Refusal := advance s

/-- `s` with the given event word as its next transaction (log 2): the block has no program counter and no instruction
memory (R30); its event words come from outside (R11). -/
def State.withFetchWord (s : State) (nbits w : Nat) : State := placeWord s nbits w

end Sys2Proof.Machine
end

