-- ==== Sys2Proof/Machine/Frame.lean ====
section
/-! DEFINITION. Whole frames on the wire (30_encoding.md R90 to R93): the closed form of the encoder (41_encoder.md R147)
and the source's decode procedure (42_decoder.md's opening, R177), which claims compare the units with. No event uses
these definitions. Also the informative code values of R96 and R97. -/

namespace Sys2Proof.Machine

/-- The CRC body: the four header bytes, then the payload (R93). -/
def crcBody (h : Header) (payload : List Byte) : List Byte :=
  [h.version, h.msgType, h.lenHi, h.lenLo] ++ payload

/-- A frame on the wire with any header, payload and trailer bytes (R90). -/
def wireFrame (cfg : Cfg) (h : Header) (payload : List Byte) (t0 t1 : Byte) : List Byte :=
  [cfg.sync0, cfg.sync1] ++ crcBody h payload ++ [t0, t1]

/-- The header the encoder sends for type `t` and a payload of `n` bytes (R90, R144). -/
def frameHeader (cfg : Cfg) (t : Byte) (n : Half) : Header :=
  { version := cfg.versionTx, msgType := t, lenHi := hi8 n, lenLo := lo8 n }

/-- The source's `build_frame(t, p)` (R147): sync bytes, header, payload, CRC, both 16-bit fields high byte first. -/
def buildFrame (cfg : Cfg) (t : Byte) (p : List Byte) : List Byte :=
  let n := BitVec.ofNat 16 p.length
  let c := crc16 cfg ([cfg.versionTx, t, hi8 n, lo8 n] ++ p)
  [cfg.sync0, cfg.sync1, cfg.versionTx, t, hi8 n, lo8 n] ++ p ++ [hi8 c, lo8 c]

/-! The source's `parse_frame` on a finite stream, read literally as nested reads. -/

/-- Synchronization: "read one byte at a time until a byte equal to 0xAA is found; then read the next byte and require it
equal 0x55", a wrong next byte being dropped and the scan going on (`DISCARD`, R163). The rest of the stream after the
marker; nothing if the stream ends first. -/
def findMarker (cfg : Cfg) : List Byte → Option (List Byte)
  | [] => none
  | b :: rest =>
    if b = cfg.sync0 then
      match rest with
      | [] => none
      | c :: rest' => if c = cfg.sync1 then some rest' else findMarker cfg rest'
    else findMarker cfg rest

/-- After the marker: "read exactly 4 bytes", "read exactly `length` bytes", "read exactly 2 bytes", and the CRC compared.
The message type and payload, or the none-result. -/
def parseBody (cfg : Cfg) : List Byte → Option (Byte × List Byte)
  | v :: t :: h :: l :: rest =>
    let n := (be16 h l).toNat
    match rest.drop n with
    | t0 :: t1 :: _ =>
      if be16 t0 t1 = crc16 cfg ([v, t, h, l] ++ rest.take n) then some (t, rest.take n) else none
    | _ => none
  | _ => none

/-- The source's `parse_frame(stream, timeout)` when the stream holds `bs` and then nothing (R177). -/
def parseFrame (cfg : Cfg) (bs : List Byte) : Option (Byte × List Byte) := (findMarker cfg bs).bind (parseBody cfg)

/-! Informative code values: the block interprets none of them (R96, R97, R171). -/

/-- The message types of R96. -/
inductive MessageType where
  | getStatus
  | statusResponse
  | setParam
  | getParam
  | paramResponse
  | resetModule
  | errorResponse
  deriving DecidableEq, Repr

/-- The wire code of a message type (R96). -/
def MessageType.code : MessageType → Byte
  | .getStatus => 0x01#8
  | .statusResponse => 0x02#8
  | .setParam => 0x03#8
  | .getParam => 0x04#8
  | .paramResponse => 0x05#8
  | .resetModule => 0x06#8
  | .errorResponse => 0x07#8

/-- The parameter identifiers of R97. -/
inductive ParameterId where
  | sensorSampleRate
  | statusPeriodMs
  | sensorEnable
  deriving DecidableEq, Repr

/-- The wire code of a parameter identifier (R97). -/
def ParameterId.code : ParameterId → Byte
  | .sensorSampleRate => 0x01#8
  | .statusPeriodMs => 0x02#8
  | .sensorEnable => 0x03#8

end Sys2Proof.Machine
end

