-- ==== Sys2Proof/Machine/Assembler.lean ====
section
/-! DEFINITION. The assembler (30_encoding.md R106, R107): the event words a source statement stands for. -/

namespace Sys2Proof.Machine

/-- The byte of a byte operand in range. -/
def byteOf (n : Nat) : Byte := BitVec.ofNat 8 n

/-- One `rx.byte` per byte (R107). -/
def rxWords (bs : List Byte) : List EventWord := bs.map fun b => encode (.rxByte b)

/-- One `crc.byte` per operand (R107). -/
def crcWords (bs : List Nat) : List EventWord := bs.map fun b => encode (.crcByte (byteOf b))

/-- The words of a statement whose operands are in range (R106), a pseudo-instruction expanded (R107). -/
def expandAsm (cfg : Cfg) : Asm → List EventWord
  | .nop => [encode .nop]
  | .crcInit => [encode .crcInit]
  | .crcByte b => [encode (.crcByte (byteOf b))]
  | .txStart t n => [encode (.txStart (byteOf t) (BitVec.ofNat 16 n))]
  | .txByte b => [encode (.txByte (byteOf b))]
  | .rxByte b => [encode (.rxByte (byteOf b))]
  | .rxTimeout => [encode .rxTimeout]
  | .errClr => [encode .errClr]
  | .word w => [BitVec.ofNat 32 w]
  | .crcBytes bs => crcWords bs
  | .crcOf bs => encode .crcInit :: crcWords bs
  | .txFrame t p =>
    encode (.txStart (byteOf t) (BitVec.ofNat 16 p.length)) :: p.map fun b => encode (.txByte (byteOf b))
  | .rxBytes bs => rxWords (bs.map byteOf)
  | .rxFrame t p => rxWords (buildFrame cfg (byteOf t) (p.map byteOf))

/-- The words of a statement; none for an operand out of range, "an assembly error, not a word" (R106). -/
def assemble (cfg : Cfg) (a : Asm) : Option (List EventWord) :=
  if a.wellFormed then some (expandAsm cfg a) else none

end Sys2Proof.Machine
end

