-- ==== Sys2Proof/Safety.lean ====
section
/-! DEFINITION. The terms claims are stated in: the reachable-state invariants of 10_state.md R62, what a transition adds to
the output trace, when an event is a usage error, and a clock cycle as the next transaction. -/

namespace Sys2Proof.Machine

/-- The invariants of every state reachable from reset by events (R62). -/
structure MeetsR62 (s : State) : Prop where
  /-- item 1 -/
  named : s.rx.state.isNamed = true
  /-- item 2 -/
  seek : s.rx.state = .seekSync0 ∨ s.rx.state = .seekSync1 → s.rx.idx = 0#16
  /-- item 3 -/
  header : s.rx.state = .header →
    s.rx.idx.toNat ≤ 3 ∧ s.rx.crc = crc16 s.cfg (s.rx.hdr.bytes.take s.rx.idx.toNat)
  /-- item 4 -/
  payload : s.rx.state = .payload →
    1 ≤ s.rx.len.toNat ∧ s.rx.len.toNat ≤ s.cfg.payloadCap ∧ s.rx.idx.toNat < s.rx.len.toNat ∧
      s.rx.crc = crc16 s.cfg (rxCovered s.cfg s.rx s.rx.idx.toNat)
  /-- item 5 -/
  trailer : s.rx.state = .trailer →
    s.rx.idx.toNat ≤ 1 ∧ s.rx.crc = crc16 s.cfg (rxCovered s.cfg s.rx s.rx.len.toNat)
  /-- item 6 -/
  tx : s.tx.state = .idle ↔ s.tx.rem = 0#16
  /-- item 7 and I5 -/
  res : s.res.status ≠ .reserved6 ∧ s.res.status ≠ .reserved7 ∧
    (s.res.status = .lenErr → s.cfg.payloadCap < 65535) ∧
    (s.res.status = .syncErr → s.cfg.sync1Mismatch = .report)

/-- A safe state: a configuration the model accepts, R62, and the payload buffer in canonical form. Every step from a safe
state that is not refused or faulted leads to one. -/
structure SafeState (s : State) : Prop where
  config : s.cfg.legal = true
  invariants : MeetsR62 s
  buffer : Memory.wf s.cfg.payloadCap s.rx.buf = true

/-- The output events a transition from `s` to `t` appends to the trace (R57). -/
def newEvents (s t : State) : List OutEvent := t.trace.drop s.trace.length

/-- The output event reports a usage error (R57). -/
def OutEvent.isUsageErr : OutEvent → Bool
  | .txByte _ => false
  | .rxFrameOk _ _ _ => false
  | .rxCrcErr _ _ _ _ _ => false
  | .rxLenErr _ _ _ => false
  | .rxSyncErr _ => false
  | .rxTimeout _ => false
  | .usageErr _ _ => true

/-- The output event is the CRC diagnostic (R57, R174). -/
def OutEvent.isCrcErr : OutEvent → Bool
  | .txByte _ => false
  | .rxFrameOk _ _ _ => false
  | .rxCrcErr _ _ _ _ _ => true
  | .rxLenErr _ _ _ => false
  | .rxSyncErr _ => false
  | .rxTimeout _ => false
  | .usageErr _ _ => false

/-- The output event accepts a frame (R57). -/
def OutEvent.isFrameOk : OutEvent → Bool
  | .txByte _ => false
  | .rxFrameOk _ _ _ => true
  | .rxCrcErr _ _ _ _ _ => false
  | .rxLenErr _ _ _ => false
  | .rxSyncErr _ => false
  | .rxTimeout _ => false
  | .usageErr _ _ => false

/-- `RX_BYTE` events of a byte sequence. -/
def rxBytes (bs : List Byte) : List Instr := bs.map .rxByte

/-- `s` with one clock cycle, and nothing else, as its pending input. -/
def State.withCycle (s : State) (p : PortIn) : State := { s with input := [.cycle p] }

/-- Bit `k` of byte `j` of the sequence flipped. -/
def flipBit (bs : List Byte) (j k : Nat) : List Byte := bs.modify j fun b => b ^^^ (1#8 <<< k)

/-- What the TX queue must be for no byte to be lost or reordered (R112): every pending transaction is a clock cycle, the
queue fits its depth, and what the transport has taken followed by what waits in the queue ends with `tx_out`. -/
structure QueueCarriesTxOut (s : State) : Prop where
  cycles : ∀ x ∈ s.input, ∃ p, x = .cycle p
  fits : s.port.txq.length ≤ s.cfg.txqDepth
  carries : s.tx.out <:+ s.port.txoTaken ++ s.port.txq

end Sys2Proof.Machine
end

