-- ==== Sys2Proof/Certificates/Slice0/Obligations.lean ====
section
/-! DEFINITION. The statements for the provers. Each docstring names the rule of spec/ it formalises. -/

open Sys2Proof
open Sys2Proof.Machine

/-! ## Encoding -/

/-- Decoding the word of any event, with every operand at every value, gives the event back (R101 to R103, R106). -/
def Obligations.DecodeOfEncodeIsTheEvent : Prop := ∀ i : Instr, decode (encode i) = .event i

/-- A word that decodes to an event is that event's word: no bit of it is dropped (R101, R104). -/
def Obligations.EncodeOfDecodeIsTheWord : Prop := ∀ (w : EventWord) (i : Instr), decode w = .event i → encode i = w

/-- R101: a word is the named event exactly when `word AND mask = match`; every other word is malformed; the rows are
disjoint. -/
def Obligations.OpcodeMapIsCompleteAndDisjoint : Prop :=
  (∀ r ∈ opcodeMap, ∀ w, r.matchesWord w ↔ ∃ i, decode w = .event i ∧ i.mnemonic = r.mnemonic) ∧
  (∀ w, (∀ r ∈ opcodeMap, ¬ r.matchesWord w) → ∃ why, decode w = .malformed why) ∧
  opcodeMap.Pairwise (fun r q => ∀ w, ¬ (r.matchesWord w ∧ q.matchesWord w))

/-- R102: the operands of a decoded event, bit by bit: `b = word[7:0]`, `type = word[23:16]`, `len = word[15:0]`. -/
def Obligations.OperandsAreTheWordsFields : Prop :=
  ∀ w : EventWord,
    (∀ b, decode w = .event (.crcByte b) ∨ decode w = .event (.txByte b) ∨ decode w = .event (.rxByte b) →
      ∀ k < 8, b.getLsbD k = w.getLsbD k) ∧
    (∀ t n, decode w = .event (.txStart t n) →
      (∀ k < 8, t.getLsbD k = w.getLsbD (16 + k)) ∧ ∀ k < 16, n.getLsbD k = w.getLsbD k)

/-- Words written out from the encodings of R101 and R106 decode to the event they stand for; a stray bit, a wide operand
and a reserved `OP` do not decode (R104). -/
def Obligations.SampleWordsDecode : Prop :=
  decode 0x00000000#32 = .event .nop ∧ decode 0x10000000#32 = .event .crcInit ∧
  decode 0x20000031#32 = .event (.crcByte 0x31) ∧ decode 0x3004FFFF#32 = .event (.txStart 0x04 0xFFFF) ∧
  decode 0x400000AA#32 = .event (.txByte 0xAA) ∧ decode 0x50000055#32 = .event (.rxByte 0x55) ∧
  decode 0x60000000#32 = .event .rxTimeout ∧ decode 0x70000000#32 = .event .errClr ∧
  decode 0x10000001#32 = .malformed .mustBeZero ∧ decode 0x20000100#32 = .malformed .mustBeZero ∧
  decode 0x31000000#32 = .malformed .mustBeZero ∧ decode 0x80000000#32 = .malformed .reservedOp

/-- R202, R228: a malformed word is one with `OP` in 0x8..0xF, or a defined `OP` and a nonzero must-be-zero bit; in every
state it sets the usage flags with `UC_MALFORMED`, emits `UsageErr(w, UC_MALFORMED)`, and does nothing else. -/
def Obligations.MalformedWordOnlyRaisesUsageError : Prop :=
  (∀ w, decode w = .malformed .reservedOp ↔ 8 ≤ w.toNat / 2 ^ 28) ∧
  (∀ w, decode w = .malformed .mustBeZero ↔ w.toNat / 2 ^ 28 < 8 ∧ ∀ r ∈ opcodeMap, ¬ r.matchesWord w) ∧
  ∀ w why s, decode w = .malformed why →
    applyWord w s = .next { s with
      usage := { err := true, code := .malformed }
      trace := s.trace ++ [.usageErr w .malformed] }

/-! ## CRC unit -/

/-- R123, R124: `CRC_INIT` puts `Cfg.CRC_INIT` into `crc_gen`, `CRC_BYTE b` steps it by `b`; both are legal in every
state and write nothing else. -/
def Obligations.CrcEventsWriteCrcGenOnly : Prop :=
  ∀ s : State,
    (decode 0x10000000#32 = .event .crcInit ∧ exec .crcInit s = .next { s with crcGen := s.cfg.crcInit }) ∧
    ∀ b : Byte, decode (0x20000000#32 ||| b.setWidth 32) = .event (.crcByte b) ∧
      exec (.crcByte b) s = .next { s with crcGen := crcStep s.cfg s.crcGen b }

/-- R122: the fold law, the residue law (for every `CRC_INIT` and `CRC_POLY`) and the table form. -/
def Obligations.CrcFoldResidueAndTableLaws : Prop :=
  (∀ cfg a b, crc16 cfg (a ++ b) = crcFold cfg (crc16 cfg a) b) ∧
  (∀ cfg a, crcFold cfg (crc16 cfg a) [hi8 (crc16 cfg a), lo8 (crc16 cfg a)] = 0#16) ∧
  (∀ (cfg : Cfg) (c : Half) (b : Byte), crcStep cfg c b = (c <<< 8) ^^^ crcStep cfg 0#16 (hi8 c ^^^ b))

/-- R127: with bit 0 of `CRC_POLY` set, two byte sequences of equal length that differ in exactly one bit have different
`crc16` values. -/
def Obligations.CrcDetectsEverySingleBitFlip : Prop :=
  ∀ (cfg : Cfg) (bs : List Byte) (j k : Nat), cfg.crcPoly.getLsbD 0 = true → j < bs.length → k < 8 →
    crc16 cfg (flipBit bs j k) ≠ crc16 cfg bs

/-- R125: the events `CRC_INIT, CRC_BYTE b1, ..., CRC_BYTE bn`, with any events of other units interleaved, leave
`crc_out = crc16([b1, ..., bn])`. -/
def Obligations.GeneratorComputesCrc16 : Prop :=
  ∀ (bs : List Byte) (es : List Instr) (s t : State),
    es.filter (fun i => i.unit == .crc) = .crcInit :: bs.map .crcByte →
    performAll es s = .next t → crcOut t = crc16 s.cfg bs

/-! ## TX unit -/

/-- R140, R141: `TX_START t, n` with no frame open emits sync bytes and header, computes `tx_crc` over the header only, and
completes the frame at once if n = 0; otherwise the frame is open and owes n bytes. With a frame open it is the usage error
`UC_TX_BUSY` with the event's word. Nothing else changes. -/
def Obligations.TxStartOpensAFrame : Prop :=
  ∀ (t : Byte) (n : Half) (s : State),
    let w := 0x30000000#32 ||| (t.setWidth 32 <<< 16) ||| n.setWidth 32
    let h := [s.cfg.versionTx, t, hi8 n, lo8 n]
    let c := crc16 s.cfg h
    let bytes := [s.cfg.sync0, s.cfg.sync1] ++ h ++ if n = 0#16 then [hi8 c, lo8 c] else []
    decode w = .event (.txStart t n) ∧
    (s.tx.state = .payload → exec (.txStart t n) s = .next { s with
      usage := { err := true, code := .txBusy }
      trace := s.trace ++ [.usageErr w .txBusy] }) ∧
    (s.tx.state = .idle → exec (.txStart t n) s = .next { s with
      tx := { state := if n = 0#16 then .idle else .payload, rem := if n = 0#16 then s.tx.rem else n, crc := c,
              out := s.tx.out ++ bytes }
      trace := s.trace ++ bytes.map .txByte })

/-- R142, R143: `TX_BYTE b` of an open frame emits the byte unchanged, steps `tx_crc`, counts `tx_rem` down, and after the
last byte emits the trailer and returns to `IDLE` (R62 item 6: an open frame owes at least one byte). With no frame open it
is the usage error `UC_TX_IDLE` with the event's word. Nothing else changes. -/
def Obligations.TxBytePassesOneByte : Prop :=
  ∀ (b : Byte) (s : State),
    let w := 0x40000000#32 ||| b.setWidth 32
    let c := crcStep s.cfg s.tx.crc b
    let last := s.tx.rem = 1#16
    let bytes := [b] ++ if last then [hi8 c, lo8 c] else []
    decode w = .event (.txByte b) ∧
    (s.tx.state = .idle → exec (.txByte b) s = .next { s with
      usage := { err := true, code := .txIdle }
      trace := s.trace ++ [.usageErr w .txIdle] }) ∧
    (s.tx.state = .payload → s.tx.rem ≠ 0#16 → exec (.txByte b) s = .next { s with
      tx := { state := if last then .idle else .payload, rem := s.tx.rem - 1#16, crc := c, out := s.tx.out ++ bytes }
      trace := s.trace ++ bytes.map .txByte })

/-- R146: there is no abort. While a frame is open, an event other than `TX_BYTE` leaves the TX unit as it is, a `TX_BYTE`
counts `tx_rem` down by one and closes the frame exactly at the last byte, and no emitted byte is withdrawn. -/
def Obligations.OpenFrameEndsOnlyByItsBytes : Prop :=
  ∀ (i : Instr) (s t : State), s.tx.state = .payload → exec i s = .next t →
    (∀ b, i = .txByte b → t.tx.rem.toNat + 1 = s.tx.rem.toNat ∧ (t.tx.state = .idle ↔ s.tx.rem = 1#16)) ∧
    ((∀ b, i ≠ .txByte b) → t.tx = s.tx) ∧
    s.tx.out <+: t.tx.out

/-- R147: from `IDLE`, `TX_START t, n` and n `TX_BYTE`s, with any events of other units interleaved, append exactly
`build_frame(t, p)` to `tx_out` and return to `IDLE`; without interleaved events they always complete. -/
def Obligations.EncoderEmitsBuildFrame : Prop :=
  ∀ (t : Byte) (p : List Byte) (s : State), p.length ≤ 65535 → s.tx.state = .idle →
    (∃ u, performAll (.txStart t (BitVec.ofNat 16 p.length) :: p.map .txByte) s = .next u) ∧
    ∀ (es : List Instr) (u : State),
      es.filter (fun i => i.unit == .tx) = .txStart t (BitVec.ofNat 16 p.length) :: p.map .txByte →
      performAll es s = .next u →
      u.tx.out = s.tx.out ++ buildFrame s.cfg t p ∧ u.tx.state = .idle

/-! ## RX unit, one byte -/

/-- R161, R162: a byte in `SEEK_SYNC0`, and `SYNC1` in `SEEK_SYNC1`; nothing else changes. -/
def Obligations.SyncBytesFindTheMarker : Prop :=
  ∀ (b : Byte) (s : State),
    (s.rx.state = .seekSync0 → exec (.rxByte b) s =
      .next (if b = s.cfg.sync0 then { s with rx := { s.rx with state := .seekSync1 } } else s)) ∧
    (s.rx.state = .seekSync1 → b = s.cfg.sync1 → exec (.rxByte b) s =
      .next { s with rx := { s.rx with state := .header, idx := 0#16, crc := s.cfg.crcInit } })

/-- R163: a byte other than `SYNC1` in `SEEK_SYNC1`, under each setting of `SYNC1_MISMATCH`; nothing else changes. -/
def Obligations.WrongSecondSyncByte : Prop :=
  ∀ (b : Byte) (s : State), s.rx.state = .seekSync1 → b ≠ s.cfg.sync1 →
    (s.cfg.sync1Mismatch = .rescan → exec (.rxByte b) s =
      .next (if b = s.cfg.sync0 then s else { s with rx := { s.rx with state := .seekSync0 } })) ∧
    (s.cfg.sync1Mismatch = .discard → exec (.rxByte b) s = .next { s with rx := { s.rx with state := .seekSync0 } }) ∧
    (s.cfg.sync1Mismatch = .report → exec (.rxByte b) s = .next { s with
      rx := { s.rx with state := .seekSync0, idx := 0#16 }
      res := { s.res with status := .syncErr, stage := .seekSync1 }
      trace := s.trace ++ [.rxSyncErr b] })

/-- R164: one of the first three header bytes goes to `rx_hdr[rx_idx]`, steps `rx_crc` and `rx_idx`; nothing else
changes. -/
def Obligations.HeaderByteIsStored : Prop :=
  ∀ (b : Byte) (s : State), s.rx.state = .header → s.rx.idx.toNat ≤ 2 →
    ∃ h : Header, h.bytes = s.rx.hdr.bytes.set s.rx.idx.toNat b ∧
      exec (.rxByte b) s = .next { s with
        rx := { s.rx with hdr := h, crc := crcStep s.cfg s.rx.crc b, idx := s.rx.idx + 1#16 } }

/-- R164, R165, R166: the fourth header byte completes the header. The length is big-endian; above `PAYLOAD_CAP` the
attempt ends with `LEN_ERR`, 0 goes straight to the trailer, any other to the payload. Nothing else changes. -/
def Obligations.FourthHeaderByteSetsTheLength : Prop :=
  ∀ (b : Byte) (s : State), s.rx.state = .header → s.rx.idx = 3#16 →
    let n := be16 s.rx.hdr.lenHi b
    let u := { s.rx with hdr := { s.rx.hdr with lenLo := b }, crc := crcStep s.cfg s.rx.crc b, len := n, idx := 0#16 }
    (s.cfg.payloadCap < n.toNat → exec (.rxByte b) s = .next { s with
      rx := { u with state := .seekSync0 }
      res := { s.res with status := .lenErr, stage := .header, version := s.rx.hdr.version,
                          msgType := s.rx.hdr.msgType, len := n }
      trace := s.trace ++ [.rxLenErr s.rx.hdr.version s.rx.hdr.msgType n] }) ∧
    (n.toNat ≤ s.cfg.payloadCap → n = 0#16 → exec (.rxByte b) s = .next { s with rx := { u with state := .trailer } }) ∧
    (n.toNat ≤ s.cfg.payloadCap → n ≠ 0#16 → exec (.rxByte b) s = .next { s with rx := { u with state := .payload } })

/-- R167, R75: a payload byte goes into the buffer at `rx_idx` and every other byte of the buffer reads as before; it
steps `rx_crc` and `rx_idx`, and after the last byte the trailer follows. Nothing else changes. -/
def Obligations.PayloadByteIsBuffered : Prop :=
  ∀ (b : Byte) (s : State), s.rx.state = .payload → s.rx.idx.toNat < s.rx.len.toNat →
    s.rx.idx.toNat < s.cfg.payloadCap →
    ∃ t, exec (.rxByte b) s = .next t ∧
      (∀ a, bufRead t.cfg t.rx a = if a = s.rx.idx.toNat then b else bufRead s.cfg s.rx a) ∧
      t = { s with rx := { s.rx with
        buf := t.rx.buf
        crc := crcStep s.cfg s.rx.crc b
        state := if s.rx.idx.toNat + 1 = s.rx.len.toNat then .trailer else .payload
        idx := if s.rx.idx.toNat + 1 = s.rx.len.toNat then 0#16 else s.rx.idx + 1#16 } }

/-- R168, R173, R174: the first trailer byte is held, without touching `rx_crc`; the second is compared with the first,
as a big-endian value, against `rx_crc`, and ends the attempt with `FRAME_OK` and the payload, or with `CRC_ERR` and the
diagnostic. Nothing else changes. -/
def Obligations.TrailerBytesVerifyTheFrame : Prop :=
  ∀ (b : Byte) (s : State), s.rx.state = .trailer →
    (s.rx.idx = 0#16 → exec (.rxByte b) s = .next { s with rx := { s.rx with trlHi := b, idx := 1#16 } }) ∧
    (s.rx.idx = 1#16 →
      let x := be16 s.rx.trlHi b
      let r := { s.res with stage := .trailer, version := s.rx.hdr.version, msgType := s.rx.hdr.msgType,
                            len := s.rx.len, crcRx := x, crcCalc := s.rx.crc }
      (x = s.rx.crc → exec (.rxByte b) s = .next { s with
        rx := { s.rx with state := .seekSync0, idx := 0#16 }
        res := { r with status := .frameOk }
        trace := s.trace ++ [.rxFrameOk s.rx.hdr.version s.rx.hdr.msgType
          ((List.range s.rx.len.toNat).map (bufRead s.cfg s.rx))] }) ∧
      (x ≠ s.rx.crc → exec (.rxByte b) s = .next { s with
        rx := { s.rx with state := .seekSync0, idx := 0#16 }
        res := { r with status := .crcErr }
        trace := s.trace ++ [.rxCrcErr s.rx.hdr.version s.rx.hdr.msgType s.rx.len x s.rx.crc] }))

/-- R173's equivalent test, by the residue law: with bit 0 of `CRC_POLY` set, the transmitted CRC equals the computed one
exactly when stepping the computed one over both trailer bytes gives 0. -/
def Obligations.ResidueTestIsTheComparison : Prop :=
  ∀ (cfg : Cfg) (c : Half) (t0 t1 : Byte), cfg.crcPoly.getLsbD 0 = true →
    (be16 t0 t1 = c ↔ crcStep cfg (crcStep cfg c t0) t1 = 0#16)

/-- R175: `RX_TIMEOUT` is legal in every named state and ends the attempt with `TIMEOUT` in that state; the header, the
CRC, the trailer byte and the buffer keep their contents, and nothing else changes. -/
def Obligations.TimeoutIsAnOutcomeInEveryState : Prop :=
  ∀ s : State, s.rx.state.isNamed = true →
    decode 0x60000000#32 = .event .rxTimeout ∧
    exec .rxTimeout s = .next { s with
      rx := { s.rx with state := .seekSync0, idx := 0#16 }
      res := { s.res with status := .timeout, stage := s.rx.state }
      trace := s.trace ++ [.rxTimeout s.rx.state] }

/-- R160, R62, I4: in a state no run reaches, the RX events stop with a fault: `rx_state` 5..7, or `rx_idx` outside its
stage's range (which fault names it is the model's choice, log 7). -/
def Obligations.RxEventsFaultInUnreachableStates : Prop :=
  ∀ (b : Byte) (s : State),
    (s.rx.state.isNamed = false →
      exec (.rxByte b) s = .fault .rxStateUnreachable ∧ exec .rxTimeout s = .fault .rxStateUnreachable) ∧
    (s.rx.state = .header → 3 < s.rx.idx.toNat → exec (.rxByte b) s = .fault .rxIdxUnreachable) ∧
    (s.rx.state = .payload → s.rx.len.toNat ≤ s.rx.idx.toNat → exec (.rxByte b) s = .fault .rxIdxUnreachable) ∧
    (s.rx.state = .trailer → 1 < s.rx.idx.toNat → exec (.rxByte b) s = .fault .rxIdxUnreachable)

/-! ## RX outcomes -/

/-- R50: which outcome writes which result register; and with no outcome none is written. The outcome is read off the
one output event; the event leaves `rx_hdr`, `rx_len` and `rx_crc` as the outcome read them. -/
def Obligations.OutcomeWritesItsResultRegisters : Prop :=
  ∀ (i : Instr) (s t : State), exec i s = .next t →
    ((newEvents s t).any OutEvent.isRxOutcome = false → t.res = s.res) ∧
    ∀ e ∈ newEvents s t,
      match e with
      | .rxFrameOk v ty p => v = t.rx.hdr.version ∧ ty = t.rx.hdr.msgType ∧ p.length = t.rx.len.toNat ∧
          t.res = ⟨.frameOk, .trailer, v, ty, t.rx.len, t.rx.crc, t.rx.crc⟩
      | .rxCrcErr v ty n x c => v = t.rx.hdr.version ∧ ty = t.rx.hdr.msgType ∧ n = t.rx.len ∧ c = t.rx.crc ∧ x ≠ c ∧
          t.res = ⟨.crcErr, .trailer, v, ty, n, x, c⟩
      | .rxLenErr v ty n => v = t.rx.hdr.version ∧ ty = t.rx.hdr.msgType ∧ n = t.rx.len ∧
          t.res = ⟨.lenErr, .header, v, ty, n, s.res.crcRx, s.res.crcCalc⟩
      | .rxSyncErr _ => t.res = { s.res with status := .syncErr, stage := .seekSync1 }
      | .rxTimeout st => t.res = { s.res with status := .timeout, stage := st } ∧ st = s.rx.state
      | .txByte _ => t.res = s.res
      | .usageErr _ _ => t.res = s.res

/-- R58: every outcome returns `rx_state` to `SEEK_SYNC0` with `rx_idx` = 0; the buffer's cells keep what was written. -/
def Obligations.OutcomeLeavesNoPartialFrame : Prop :=
  ∀ (i : Instr) (s t : State), exec i s = .next t → (newEvents s t).any OutEvent.isRxOutcome = true →
    t.rx.state = .seekSync0 ∧ t.rx.idx = 0#16 ∧ ∀ a, bufRead t.cfg t.rx a = bufRead s.cfg s.rx a

/-- R227: one event word appends to the trace, and among what it appends at most one event is an RX outcome or a usage
error. -/
def Obligations.AtMostOneReportPerEvent : Prop :=
  ∀ (w : EventWord) (s t : State), applyWord w s = .next t →
    s.trace <+: t.trace ∧ ((newEvents s t).filter fun e => e.isRxOutcome || e.isUsageErr).length ≤ 1

/-- R166, R46: `LEN_ERR` occurs only with `PAYLOAD_CAP` below 65535, `SYNC_ERR` only under `REPORT`. -/
def Obligations.ConfigurationExcludesOutcomes : Prop :=
  ∀ (i : Instr) (s t : State), exec i s = .next t → ∀ e ∈ newEvents s t,
    (∀ v ty n, e = .rxLenErr v ty n → s.cfg.payloadCap < 65535) ∧
    (∀ b, e = .rxSyncErr b → s.cfg.sync1Mismatch = .report)

/-! ## RX unit, whole frames -/

/-- Any frame of R90, decoded from `SEEK_SYNC0` under any configuration (R164 to R174, R182): no outcome before the last
byte; at the last byte exactly one, `FRAME_OK` with the version, type and payload if the trailer is the CRC of the CRC
body, `CRC_ERR` with the diagnostic if not; the buffer holds the payload. No version and no type is refused (R171). -/
def Obligations.DecoderClosedForm : Prop :=
  ∀ (h : Header) (p : List Byte) (t0 t1 : Byte) (s : State),
    s.rx.state = .seekSync0 → (be16 h.lenHi h.lenLo).toNat = p.length → p.length ≤ s.cfg.payloadCap →
    (∀ k < (wireFrame s.cfg h p t0 t1).length, ∃ u,
      performAll (rxBytes ((wireFrame s.cfg h p t0 t1).take k)) s = .next u ∧ u.trace = s.trace) ∧
    ∃ t, performAll (rxBytes (wireFrame s.cfg h p t0 t1)) s = .next t ∧
      t.trace = s.trace ++ [if be16 t0 t1 = crc16 s.cfg (crcBody h p) then .rxFrameOk h.version h.msgType p
        else .rxCrcErr h.version h.msgType (be16 h.lenHi h.lenLo) (be16 t0 t1) (crc16 s.cfg (crcBody h p))] ∧
      t.rx.state = .seekSync0 ∧ t.rx.idx = 0#16 ∧
      ∀ i, (hi : i < p.length) → bufRead t.cfg t.rx i = p[i]

/-- R181: a frame the encoder would send gives no outcome before its last byte, and frames back to back decode one after
another from `SEEK_SYNC0` under every `SYNC1_MISMATCH`, each to exactly one `RxFrameOk(VERSION_TX, t, p)`. -/
def Obligations.DecodeOfEncodeGivesTheFrames : Prop :=
  ∀ (fs : List (Byte × List Byte)) (s : State), s.rx.state = .seekSync0 →
    (∀ f ∈ fs, f.2.length ≤ s.cfg.payloadCap ∧ f.2.length ≤ 65535) →
    (∀ f ∈ fs, ∀ k < (buildFrame s.cfg f.1 f.2).length, ∃ u,
      performAll (rxBytes ((buildFrame s.cfg f.1 f.2).take k)) s = .next u ∧ u.trace = s.trace) ∧
    ∃ t, performAll (rxBytes (fs.flatMap fun f => buildFrame s.cfg f.1 f.2)) s = .next t ∧
      t.trace = s.trace ++ fs.map (fun f => .rxFrameOk s.cfg.versionTx f.1 f.2) ∧ t.rx.state = .seekSync0

/-- R178 under `RESCAN`: bytes without the pair `[SYNC0, SYNC1]` leave the decoder in the two sync states, without an
outcome, and in `SEEK_SYNC1` exactly if the last of them is `SYNC0`; bytes whose first such pair is at their end enter
`HEADER`. -/
def Obligations.RescanFindsTheFirstMarker : Prop :=
  ∀ (q : List Byte) (s : State), s.cfg.sync1Mismatch = .rescan → s.cfg.sync0 ≠ s.cfg.sync1 →
    s.rx.state = .seekSync0 →
    (¬ [s.cfg.sync0, s.cfg.sync1] <:+: q →
      performAll (rxBytes q) s = .next { s with
        rx := { s.rx with state := if q.getLast? = some s.cfg.sync0 then .seekSync1 else .seekSync0 } }) ∧
    (¬ [s.cfg.sync0, s.cfg.sync1] <:+: q ++ [s.cfg.sync0] →
      performAll (rxBytes (q ++ [s.cfg.sync0, s.cfg.sync1])) s = .next { s with
        rx := { s.rx with state := .header, idx := 0#16, crc := s.cfg.crcInit } })

/-- R178's resynchronization property under `RESCAN`: noise without the pair `[SYNC0, SYNC1]` before a frame does not
prevent its decoding. -/
def Obligations.NoiseBeforeAFrameIsSkipped : Prop :=
  ∀ (q : List Byte) (t : Byte) (p : List Byte) (s : State),
    s.cfg.sync1Mismatch = .rescan → s.cfg.sync0 ≠ s.cfg.sync1 → s.rx.state = .seekSync0 →
    ¬ [s.cfg.sync0, s.cfg.sync1] <:+: q → p.length ≤ s.cfg.payloadCap → p.length ≤ 65535 →
    ∃ u, performAll (rxBytes (q ++ buildFrame s.cfg t p)) s = .next u ∧
      u.trace = s.trace ++ [.rxFrameOk s.cfg.versionTx t p]

/-- R180, first clause: a frame with one bit flipped in its version byte, its type byte, a payload byte or a trailer byte
ends with `CRC_ERR` at its last byte, never with `FRAME_OK`. -/
def Obligations.FlippedBitEndsInCrcErr : Prop :=
  ∀ (t : Byte) (p : List Byte) (j k : Nat) (s : State), s.cfg.crcPoly.getLsbD 0 = true →
    s.rx.state = .seekSync0 → p.length ≤ s.cfg.payloadCap → p.length ≤ 65535 →
    j = 2 ∨ j = 3 ∨ (6 ≤ j ∧ j < (buildFrame s.cfg t p).length) → k < 8 →
    ∃ u e, performAll (rxBytes (flipBit (buildFrame s.cfg t p) j k)) s = .next u ∧
      u.trace = s.trace ++ [e] ∧ e.isCrcErr = true

/-- R177: under `DISCARD` and the conforming capacity, the first outcome of a byte stream that ends (`RX_TIMEOUT`) is
what the source's `parse_frame`, read literally, returns: `FRAME_OK` with the same type and payload, or a none-result. -/
def Obligations.DecoderRefinesTheSourcesParser : Prop :=
  ∀ (bs : List Byte) (s : State), s.cfg.sync1Mismatch = .discard → s.cfg.payloadCap = 65535 →
    s.rx.state = .seekSync0 →
    ∃ t e rest, performAll (rxBytes bs ++ [.rxTimeout]) s = .next t ∧ newEvents s t = e :: rest ∧
      match parseFrame s.cfg bs with
      | some (ty, p) => ∃ v, e = .rxFrameOk v ty p
      | none => e.isRxOutcome = true ∧ e.isFrameOk = false

/-- R260: at least the first six `RX_BYTE` events after an outcome write no buffer cell. -/
def Obligations.FirstSixBytesWriteNoCell : Prop :=
  ∀ (bs : List Byte) (s t : State), s.rx.state = .seekSync0 → bs.length ≤ 6 →
    performAll (rxBytes bs) s = .next t → ∀ a, bufRead t.cfg t.rx a = bufRead s.cfg s.rx a

/-- R264: without a timeout, from the start of a header the unit is back in `SEEK_SYNC0` after at most 65541 bytes
(4 header, 65535 payload, 2 trailer), whatever they are. -/
def Obligations.FrameEndsWithin65541Bytes : Prop :=
  ∀ (bs : List Byte) (s : State), s.cfg.legal = true → s.rx.state = .header → s.rx.idx = 0#16 → bs.length = 65541 →
    ∃ k, 0 < k ∧ k ≤ 65541 ∧ ∃ t, performAll (rxBytes (bs.take k)) s = .next t ∧ t.rx.state = .seekSync0

/-! ## Flags, frames, units -/

/-- R200, R201: `NOP` changes nothing; `ERR_CLR` clears the usage flags and changes nothing else. -/
def Obligations.ControlEventsTouchOnlyTheUsageFlags : Prop :=
  ∀ s : State, decode 0x00000000#32 = .event .nop ∧ exec .nop s = .next s ∧
    decode 0x70000000#32 = .event .errClr ∧ exec .errClr s = .next { s with usage := { err := false, code := .none } }

/-- R51, R52: a usage error sets `usage_err` and writes its code; among event words only `ERR_CLR` clears the flag (any
other leaves it set if it was set); RX events leave both fields alone. -/
def Obligations.UsageErrIsSticky : Prop :=
  ∀ (w : EventWord) (s t : State), applyWord w s = .next t →
    (∀ v c, .usageErr v c ∈ newEvents s t → v = w ∧ t.usage = { err := true, code := c }) ∧
    (s.usage.err = true → w ≠ 0x70000000#32 → t.usage.err = true) ∧
    (w = 0x70000000#32 → t.usage = { err := false, code := .none }) ∧
    ((∃ i, decode w = .event i ∧ i.unit = .rx) → t.usage = s.usage)

/-- R60, the write columns: an event changes only its own unit's registers; the result registers change only in RX
events, the usage flags only in `ERR_CLR` and usage errors; and every byte of the payload buffer reads as before but the
one an `RX_BYTE` in `PAYLOAD` stores at `rx_idx`. -/
def Obligations.EventsChangeOnlyTheirUnit : Prop :=
  ∀ (i : Instr) (s t : State), exec i s = .next t →
    (i.unit ≠ .crc → t.crcGen = s.crcGen) ∧
    (i.unit ≠ .tx → t.tx = s.tx) ∧
    (i.unit ≠ .rx → t.rx = s.rx ∧ t.res = s.res) ∧
    (i ≠ .errClr → (newEvents s t).any OutEvent.isUsageErr = false → t.usage = s.usage) ∧
    (t.cfg = s.cfg ∧ t.port = s.port ∧ t.input = s.input ∧ t.draws = s.draws) ∧
    ∀ a, ¬ ((∃ b, i = .rxByte b) ∧ s.rx.state = .payload ∧ a = s.rx.idx.toNat) →
      bufRead t.cfg t.rx a = bufRead s.cfg s.rx a

/-- R82: two events of different units give the same final state in either order; the trace changes only by the relative
order of the two events' own outputs, what each appends when it is applied to the state before both. -/
def Obligations.EventsOfDifferentUnitsCommute : Prop :=
  ∀ (i j : Instr) (s s1 s12 : State), i.unit ≠ j.unit → i.unit ≠ .control → j.unit ≠ .control →
    exec i s = .next s1 → exec j s1 = .next s12 →
    ∃ s2 s21, exec j s = .next s2 ∧ exec i s2 = .next s21 ∧
      s12.trace = s.trace ++ newEvents s s1 ++ newEvents s s2 ∧
      s21.trace = s.trace ++ newEvents s s2 ++ newEvents s s1 ∧
      { s12 with trace := [] } = { s21 with trace := [] }

/-- R223: no condition stops the block. In every state R62 allows, every event, and every event word, has a next
state. -/
def Obligations.EveryEventCompletes : Prop :=
  ∀ s : State, MeetsR62 s →
    (∀ i : Instr, ∃ t, exec i s = .next t) ∧ ∀ w : EventWord, ∃ t, applyWord w s = .next t

/-! ## Memory, byte order, views -/

/-- R75, R76: what a read of the payload buffer returns after a write; reads at or above the capacity return 0x00. R75
gives `BufWrite` only a precondition: that it faults where that fails is the model's choice (log 7). -/
def Obligations.BufferReadsWhatWasWritten : Prop :=
  ∀ (cfg : Cfg) (u : RxUnit) (i : Nat) (b : Byte),
    (i < cfg.payloadCap → ∃ v, bufWrite cfg u i b = .ok v ∧ v = { u with buf := v.buf } ∧ bufRead cfg v i = b ∧
      ∀ a, a ≠ i → bufRead cfg v a = bufRead cfg u a) ∧
    (cfg.payloadCap ≤ i → bufWrite cfg u i b = .error .bufWriteOutOfRange) ∧
    ∀ a, cfg.payloadCap ≤ a → bufRead cfg u a = 0x00#8

/-- R70, R73: the byte order of a 16-bit value on the wire, both ways. -/
def Obligations.WireOrderIsBigEndian : Prop :=
  (∀ v : Half, be16 (hi8 v) (lo8 v) = v ∧ (hi8 v).toNat = v.toNat / 256 ∧ (lo8 v).toNat = v.toNat % 256) ∧
  ∀ h l : Byte, (be16 h l).toNat = h.toNat * 256 + l.toNat

/-- R53: the fields of `STATUS`, its reserved bits, and its reset value; and the numeric encodings its fields have, of
`rx_state` and `res_stage` (R40, R47), `res_status` (R46), `usage_code` (R52), and of `tx_state` (R33). -/
def Obligations.StatusIsThePackedView : Prop :=
  [RxState.seekSync0, .seekSync1, .header, .payload, .trailer].map RxState.code = [0#3, 1#3, 2#3, 3#3, 4#3] ∧
  [ResStatus.none, .frameOk, .timeout, .crcErr, .lenErr, .syncErr].map ResStatus.code = [0#3, 1#3, 2#3, 3#3, 4#3, 5#3] ∧
  [UsageCode.none, .malformed, .txBusy, .txIdle].map UsageCode.code = [0#2, 1#2, 2#2, 3#2] ∧
  [TxState.idle, .payload].map TxState.code = [0#1, 1#1] ∧
  (∀ s : State,
    (status s).extractLsb' 0 3 = s.rx.state.code ∧ (status s).getLsbD 3 = decide (s.tx.state = .payload) ∧
    (status s).getLsbD 4 = s.usage.err ∧ (status s).extractLsb' 5 2 = s.usage.code.code ∧
    (status s).getLsbD 7 = false ∧ (status s).extractLsb' 8 3 = s.res.status.code ∧
    (status s).getLsbD 11 = false ∧ (status s).extractLsb' 12 3 = s.res.stage.code ∧
    ∀ k, 15 ≤ k → (status s).getLsbD k = false) ∧
  ∀ c, status (State.resetOf c) = 0#32

/-! ## The machine -/

/-- R10, R80: in a state R62 allows, a step whose next transaction is an event word is exactly that event applied to the
state without the word; a malformed word is R202's usage error. With
nothing pending a step changes nothing: the model's reading of R244 (log 2). -/
def Obligations.StepAppliesTheDecodedEvent : Prop :=
  ∀ (s : State) (w : EventWord) (rest : List Input), s.cfg.legal = true → MeetsR62 s →
    (s.input = .word w :: rest →
      (∀ i, decode w = .event i → step s = exec i { s with input := rest }) ∧
      (∀ why, decode w = .malformed why → step s = .next { s with
        input := rest
        usage := { err := true, code := .malformed }
        trace := s.trace ++ [.usageErr w .malformed] })) ∧
    (s.input = [] → step s = .next s)

/-- R62: every step keeps the invariants of R62, whatever the transaction. -/
def Obligations.StepKeepsR62 : Prop := ∀ s t : State, MeetsR62 s → step s = .next t → MeetsR62 t

/-- R62 holds at reset, and the payload buffer is in canonical form there. -/
def Obligations.ResetIsSafe : Prop := ∀ c : Cfg, c.legal = true → SafeState (State.resetOf c)

/-- The payload buffer keeps its canonical form: indices strictly rising, each below the capacity (R39, R74). -/
def Obligations.StepKeepsTheBufferCanonical : Prop :=
  ∀ s t : State, Memory.wf s.cfg.payloadCap s.rx.buf = true → step s = .next t →
    Memory.wf t.cfg.payloadCap t.rx.buf = true

/-- R62's last sentence, I4, I5: a step that meets a state breaking R62 faults, unless it is a reset cycle. -/
def Obligations.BrokenStateFaults : Prop :=
  ∀ s : State, s.cfg.legal = true → ¬ MeetsR62 s → (∀ p rest, s.input = .cycle p :: rest → p.rst = false) →
    ∃ f, step s = .fault f

/-- R7, I15: a step is refused exactly under a configuration that breaks a constraint. The spec says that a model refuses
such a configuration; that it does so at every step, whatever the transaction, is the model's choice (log 8). -/
def Obligations.OnlyIllegalConfigurationsAreRefused : Prop :=
  ∀ s : State,
    (s.cfg.sync0 = s.cfg.sync1 ∨ s.cfg.payloadCap = 0 ∨ 65535 < s.cfg.payloadCap ∨ s.cfg.txqDepth < 8) ↔
      ∃ r, step s = .refused r

/-- R31: no event, no cycle and no reset changes the configuration. That a step takes exactly one transaction from the
model's own field `input` is the model's choice (log 2). -/
def Obligations.ConfigurationNeverChanges : Prop :=
  ∀ s t : State, step s = .next t → t.cfg = s.cfg ∧ t.input = s.input.tail

/-- R250, R253: from every state, also one no run reaches, a cycle with `rst` = 1 leaves every field at its reset value, the
same that `reset : Cfg → State` returns; the derived views have their reset values. R250 leaves every buffer cell and
`rxb_data` unspecified: that they are the free values of a new draw is the model's choice (logs 4 and 5). -/
def Obligations.ResetCycleGivesTheResetValues : Prop :=
  ∀ (s : State) (p : PortIn) (rest : List Input), s.cfg.legal = true → s.input = .cycle p :: rest → p.rst = true →
    ∃ t, step s = .next t ∧ newEvents s t = [] ∧
      t.cfg = s.cfg ∧ t.crcGen = s.cfg.crcInit ∧
      t.tx = { state := .idle, rem := 0#16, crc := s.cfg.crcInit, out := [] } ∧
      t.rx.state = .seekSync0 ∧ t.rx.idx = 0#16 ∧ t.rx.hdr = ⟨0#8, 0#8, 0#8, 0#8⟩ ∧ t.rx.len = 0#16 ∧
      t.rx.crc = s.cfg.crcInit ∧ t.rx.trlHi = 0#8 ∧
      t.res = ⟨.none, .seekSync0, 0#8, 0#8, 0#16, 0#16, 0#16⟩ ∧ t.usage = { err := false, code := .none } ∧
      t.port.txq = [] ∧ t.port.rxDone = false ∧
      (∀ a < s.cfg.payloadCap, bufRead t.cfg t.rx a = Config.bufDraw t.rx.bufSeed a) ∧
      rxbDataPort t = Config.rxbDraw t.rx.bufSeed ∧
      status t = 0#32 ∧ crcOut t = s.cfg.crcInit ∧ txBusy t = false ∧
      (let r := State.resetOf s.cfg
       t.crcGen = r.crcGen ∧ t.tx = r.tx ∧ { t.rx with bufSeed := r.rx.bufSeed } = r.rx ∧ t.res = r.res ∧
         t.usage = r.usage ∧ t.port.txq = r.port.txq ∧ t.port.rxDone = r.port.rxDone)

/-- R251: a reset cycle ends an open TX frame and a partly received RX frame with no output event, drops what waits in the
TX queue, and what the transport has taken stays sent (the model's record of it, log 3); the cycles to come stay. -/
def Obligations.ResetCycleEmitsNothing : Prop :=
  ∀ (s : State) (p : PortIn) (rest : List Input), s.cfg.legal = true → s.input = .cycle p :: rest → p.rst = true →
    ∃ t, step s = .next t ∧ newEvents s t = [] ∧ t.trace = s.trace ∧ t.tx.state = .idle ∧ t.tx.out = [] ∧
      t.rx.state = .seekSync0 ∧ t.port.txq = [] ∧ t.port.txoTaken = s.port.txoTaken ∧ t.input = rest

/-! ## Cycle level -/

/-- R230 to R233, R111, R113, R273: in one cycle, reset overrides every other input; a byte is exactly `RX_BYTE(rxi_data)`
and beats a timeout, a lone timeout is exactly `RX_TIMEOUT`, and with neither the RX unit is unaffected; `crc_init` with
`crc_en` is init, then byte; a TX start request shuts the payload byte out; a usage error in the cycle of `err_clr` leaves
the flag set with the new code, and with no usage error `err_clr` clears the flags and nothing else touches them. -/
def Obligations.SameCyclePriorities : Prop :=
  ∀ (s : State) (p q : PortIn),
    (p.rst = true → q.rst = true → step (s.withCycle p) = step (s.withCycle q)) ∧
    (p.rxiValid = true → step (s.withCycle p) = step (s.withCycle { p with rxiTimeout := false })) ∧
    (p.txStartValid = true → step (s.withCycle p) = step (s.withCycle { p with txPlValid := false })) ∧
    ∀ t, p.rst = false → step (s.withCycle p) = .next t →
      let rxOut := (newEvents s t).filter OutEvent.isRxOutcome
      (p.rxiValid = true → ∃ u, exec (.rxByte p.rxiData) s = .next u ∧
        t.rx = u.rx ∧ t.res = u.res ∧ rxOut = newEvents s u) ∧
      (p.rxiValid = false → p.rxiTimeout = true → ∃ u, exec .rxTimeout s = .next u ∧
        t.rx = u.rx ∧ t.res = u.res ∧ rxOut = newEvents s u) ∧
      (p.rxiValid = false → p.rxiTimeout = false → t.rx = s.rx ∧ t.res = s.res ∧ rxOut = []) ∧
      (p.crcInit = true → t.crcGen = if p.crcEn then crcStep s.cfg s.cfg.crcInit p.crcDin else s.cfg.crcInit) ∧
      (p.crcInit = false → t.crcGen = if p.crcEn then crcStep s.cfg s.crcGen p.crcDin else s.crcGen) ∧
      (p.txStartValid = true → txStartReady p s = true → s.tx.state = .payload →
        t.usage = { err := true, code := .txBusy }) ∧
      (p.txPlValid = true → txPlReady p s = true → s.tx.state = .idle →
        t.usage = { err := true, code := .txIdle }) ∧
      ((newEvents s t).any OutEvent.isUsageErr = false →
        t.usage = if p.errClr then { err := false, code := .none } else s.usage)

/-- R112, R252: when the two ready outputs are 1; that a completed handshake performs exactly `TX_START(tx_type, tx_len)` or
`TX_BYTE(tx_pl_data)`, legal or not, on the TX unit and the output trace; and that without one no TX event happens: the TX
unit, the flags (but for `err_clr`) and the trace (but for RX outcomes) are unaffected. -/
def Obligations.TxHandshakeNeedsReady : Prop :=
  ∀ (s : State) (p : PortIn),
    (txStartReady p s = true ↔ p.rst = false ∧ s.port.txq.length + 8 ≤ s.cfg.txqDepth) ∧
    (txPlReady p s = true ↔
      p.rst = false ∧ s.port.txq.length + 3 ≤ s.cfg.txqDepth ∧ p.txStartValid = false) ∧
    ∀ t, p.rst = false → step (s.withCycle p) = .next t →
      let txOut := (newEvents s t).filter fun e => !e.isRxOutcome
      (p.txStartValid = true → txStartReady p s = true → ∃ u, exec (.txStart p.txType p.txLen) s = .next u ∧
        t.tx = u.tx ∧ txOut = newEvents s u) ∧
      (p.txPlValid = true → txPlReady p s = true → ∃ u, exec (.txByte p.txPlData) s = .next u ∧
        t.tx = u.tx ∧ txOut = newEvents s u) ∧
      ((p.txStartValid && txStartReady p s) = false → (p.txPlValid && txPlReady p s) = false →
        t.tx = s.tx ∧ t.usage = (if p.errClr then { err := false, code := .none } else s.usage) ∧ txOut = [])

/-- R112: driven by clock cycles, the queue never overflows, and no emitted byte is lost or reordered: what the transport
has taken followed by what waits in the queue ends with `tx_out`. -/
def Obligations.StepKeepsTheQueueCarryingTxOut : Prop :=
  ∀ s t : State, QueueCarriesTxOut s → step s = .next t → QueueCarriesTxOut t

/-- R115: after a clock cycle without reset, `rx_done` is 1 exactly if the cycle recorded an outcome, and a cycle records
at most one; the number of its `Rx*` output events is the pulse. -/
def Obligations.RxDonePulsesOncePerOutcome : Prop :=
  ∀ (s t : State) (p : PortIn), p.rst = false → step (s.withCycle p) = .next t →
    ((newEvents s t).filter OutEvent.isRxOutcome).length = if t.port.rxDone then 1 else 0

/-- R114: after a clock cycle without reset, `rxb_data` is `BufRead(rxb_addr)` of the state before the edge, also when
the same edge writes that cell. -/
def Obligations.ReadPortShowsTheBufferBeforeTheEdge : Prop :=
  ∀ (s t : State) (p : PortIn), p.rst = false → step (s.withCycle p) = .next t →
    rxbDataPort t = bufRead s.cfg s.rx p.rxbAddr.toNat

/-- R116: the ports cannot spell a malformed word: the usage errors of a clock cycle are `UC_TX_BUSY` and `UC_TX_IDLE`. -/
def Obligations.PortsNeverReportMalformed : Prop :=
  ∀ (s t : State) (p : PortIn), step (s.withCycle p) = .next t →
    ∀ w c, .usageErr w c ∈ newEvents s t → c = .txBusy ∨ c = .txIdle

/-- R270, R273, R111 to R113: in a state R62 allows, every clock cycle without reset completes, and what it performs is
exactly the events its inputs ask for, in this order: `ERR_CLR`; `CRC_INIT`, then `CRC_BYTE`; one TX event whose handshake
completes, the start first; one RX event, the byte first. Only the cycle-level registers and the model's draw counter
differ from the state those events leave. A reset cycle completes too. -/
def Obligations.EveryCycleCompletes : Prop :=
  ∀ (s : State) (p : PortIn), s.cfg.legal = true → MeetsR62 s →
    (p.rst = true → ∃ t, step (s.withCycle p) = .next t) ∧
    (p.rst = false → ∃ t u, step (s.withCycle p) = .next t ∧
      performAll ((if p.errClr then [.errClr] else []) ++
        (if p.crcInit then [.crcInit] else []) ++ (if p.crcEn then [.crcByte p.crcDin] else []) ++
        (if p.txStartValid then
          if s.port.txq.length + 8 ≤ s.cfg.txqDepth then [.txStart p.txType p.txLen] else []
        else if p.txPlValid && decide (s.port.txq.length + 3 ≤ s.cfg.txqDepth) then [.txByte p.txPlData] else []) ++
        (if p.rxiValid then [.rxByte p.rxiData] else if p.rxiTimeout then [.rxTimeout] else []))
        { s with input := [] } = .next u ∧
      t = { u with port := t.port, draws := t.draws })

/-- R112, R272, R110: `txo_valid`, `txo_data` and the cycle-level `tx_busy` show the queue, the oldest byte first; a cycle
with `txo_ready` = 1 removes exactly that byte (the model's record of it, log 3), one with `txo_ready` = 0 removes none; the
bytes a cycle emits join the queue at its end, and a cycle with no completed TX handshake emits none. -/
def Obligations.TxQueueDrainsOldestFirst : Prop :=
  ∀ (s : State) (p : PortIn),
    ((portOut p s).txoValid = true ↔ s.port.txq ≠ []) ∧
    (∀ b rest, s.port.txq = b :: rest → (portOut p s).txoData = b) ∧
    ((portOut p s).txBusy = true ↔ s.tx.state = .payload ∨ s.port.txq ≠ []) ∧
    ∀ t, p.rst = false → step (s.withCycle p) = .next t → ∃ q, t.tx.out = s.tx.out ++ q ∧
      (p.txoReady = false → t.port.txq = s.port.txq ++ q ∧ t.port.txoTaken = s.port.txoTaken) ∧
      (p.txoReady = true → ∀ b rest, s.port.txq = b :: rest →
        t.port.txq = rest ++ q ∧ t.port.txoTaken = s.port.txoTaken ++ [b]) ∧
      (p.txoReady = true → s.port.txq = [] → t.port.txq = q ∧ t.port.txoTaken = s.port.txoTaken) ∧
      ((p.txStartValid && txStartReady p s) = false → (p.txPlValid && txPlReady p s) = false → q = [])
end

