-- ==== Sys2Proof/Laws/State.lean ====
section
/-! SUPPORT. One lemma per field per update of State, so that no later proof unfolds a record update. -/

namespace Sys2Proof.Machine

variable (s : State)

@[simp] theorem State.setCrcGen_cfg (v : Half) : (s.setCrcGen v).cfg = s.cfg := rfl
@[simp] theorem State.setCrcGen_crcGen (v : Half) : (s.setCrcGen v).crcGen = v := rfl
@[simp] theorem State.setCrcGen_tx (v : Half) : (s.setCrcGen v).tx = s.tx := rfl
@[simp] theorem State.setCrcGen_rx (v : Half) : (s.setCrcGen v).rx = s.rx := rfl
@[simp] theorem State.setCrcGen_res (v : Half) : (s.setCrcGen v).res = s.res := rfl
@[simp] theorem State.setCrcGen_usage (v : Half) : (s.setCrcGen v).usage = s.usage := rfl
@[simp] theorem State.setCrcGen_port (v : Half) : (s.setCrcGen v).port = s.port := rfl
@[simp] theorem State.setCrcGen_trace (v : Half) : (s.setCrcGen v).trace = s.trace := rfl
@[simp] theorem State.setCrcGen_input (v : Half) : (s.setCrcGen v).input = s.input := rfl
@[simp] theorem State.setCrcGen_draws (v : Half) : (s.setCrcGen v).draws = s.draws := rfl

@[simp] theorem State.setTx_cfg (v : TxUnit) : (s.setTx v).cfg = s.cfg := rfl
@[simp] theorem State.setTx_crcGen (v : TxUnit) : (s.setTx v).crcGen = s.crcGen := rfl
@[simp] theorem State.setTx_tx (v : TxUnit) : (s.setTx v).tx = v := rfl
@[simp] theorem State.setTx_rx (v : TxUnit) : (s.setTx v).rx = s.rx := rfl
@[simp] theorem State.setTx_res (v : TxUnit) : (s.setTx v).res = s.res := rfl
@[simp] theorem State.setTx_usage (v : TxUnit) : (s.setTx v).usage = s.usage := rfl
@[simp] theorem State.setTx_port (v : TxUnit) : (s.setTx v).port = s.port := rfl
@[simp] theorem State.setTx_trace (v : TxUnit) : (s.setTx v).trace = s.trace := rfl
@[simp] theorem State.setTx_input (v : TxUnit) : (s.setTx v).input = s.input := rfl
@[simp] theorem State.setTx_draws (v : TxUnit) : (s.setTx v).draws = s.draws := rfl

@[simp] theorem State.setRx_cfg (v : RxUnit) : (s.setRx v).cfg = s.cfg := rfl
@[simp] theorem State.setRx_crcGen (v : RxUnit) : (s.setRx v).crcGen = s.crcGen := rfl
@[simp] theorem State.setRx_tx (v : RxUnit) : (s.setRx v).tx = s.tx := rfl
@[simp] theorem State.setRx_rx (v : RxUnit) : (s.setRx v).rx = v := rfl
@[simp] theorem State.setRx_res (v : RxUnit) : (s.setRx v).res = s.res := rfl
@[simp] theorem State.setRx_usage (v : RxUnit) : (s.setRx v).usage = s.usage := rfl
@[simp] theorem State.setRx_port (v : RxUnit) : (s.setRx v).port = s.port := rfl
@[simp] theorem State.setRx_trace (v : RxUnit) : (s.setRx v).trace = s.trace := rfl
@[simp] theorem State.setRx_input (v : RxUnit) : (s.setRx v).input = s.input := rfl
@[simp] theorem State.setRx_draws (v : RxUnit) : (s.setRx v).draws = s.draws := rfl

@[simp] theorem State.setRes_cfg (v : ResRegs) : (s.setRes v).cfg = s.cfg := rfl
@[simp] theorem State.setRes_crcGen (v : ResRegs) : (s.setRes v).crcGen = s.crcGen := rfl
@[simp] theorem State.setRes_tx (v : ResRegs) : (s.setRes v).tx = s.tx := rfl
@[simp] theorem State.setRes_rx (v : ResRegs) : (s.setRes v).rx = s.rx := rfl
@[simp] theorem State.setRes_res (v : ResRegs) : (s.setRes v).res = v := rfl
@[simp] theorem State.setRes_usage (v : ResRegs) : (s.setRes v).usage = s.usage := rfl
@[simp] theorem State.setRes_port (v : ResRegs) : (s.setRes v).port = s.port := rfl
@[simp] theorem State.setRes_trace (v : ResRegs) : (s.setRes v).trace = s.trace := rfl
@[simp] theorem State.setRes_input (v : ResRegs) : (s.setRes v).input = s.input := rfl
@[simp] theorem State.setRes_draws (v : ResRegs) : (s.setRes v).draws = s.draws := rfl

@[simp] theorem State.setUsage_cfg (v : UsageFlags) : (s.setUsage v).cfg = s.cfg := rfl
@[simp] theorem State.setUsage_crcGen (v : UsageFlags) : (s.setUsage v).crcGen = s.crcGen := rfl
@[simp] theorem State.setUsage_tx (v : UsageFlags) : (s.setUsage v).tx = s.tx := rfl
@[simp] theorem State.setUsage_rx (v : UsageFlags) : (s.setUsage v).rx = s.rx := rfl
@[simp] theorem State.setUsage_res (v : UsageFlags) : (s.setUsage v).res = s.res := rfl
@[simp] theorem State.setUsage_usage (v : UsageFlags) : (s.setUsage v).usage = v := rfl
@[simp] theorem State.setUsage_port (v : UsageFlags) : (s.setUsage v).port = s.port := rfl
@[simp] theorem State.setUsage_trace (v : UsageFlags) : (s.setUsage v).trace = s.trace := rfl
@[simp] theorem State.setUsage_input (v : UsageFlags) : (s.setUsage v).input = s.input := rfl
@[simp] theorem State.setUsage_draws (v : UsageFlags) : (s.setUsage v).draws = s.draws := rfl

@[simp] theorem State.setPort_cfg (v : PortRegs) : (s.setPort v).cfg = s.cfg := rfl
@[simp] theorem State.setPort_crcGen (v : PortRegs) : (s.setPort v).crcGen = s.crcGen := rfl
@[simp] theorem State.setPort_tx (v : PortRegs) : (s.setPort v).tx = s.tx := rfl
@[simp] theorem State.setPort_rx (v : PortRegs) : (s.setPort v).rx = s.rx := rfl
@[simp] theorem State.setPort_res (v : PortRegs) : (s.setPort v).res = s.res := rfl
@[simp] theorem State.setPort_usage (v : PortRegs) : (s.setPort v).usage = s.usage := rfl
@[simp] theorem State.setPort_port (v : PortRegs) : (s.setPort v).port = v := rfl
@[simp] theorem State.setPort_trace (v : PortRegs) : (s.setPort v).trace = s.trace := rfl
@[simp] theorem State.setPort_input (v : PortRegs) : (s.setPort v).input = s.input := rfl
@[simp] theorem State.setPort_draws (v : PortRegs) : (s.setPort v).draws = s.draws := rfl

@[simp] theorem State.setInput_cfg (v : List Input) : (s.setInput v).cfg = s.cfg := rfl
@[simp] theorem State.setInput_crcGen (v : List Input) : (s.setInput v).crcGen = s.crcGen := rfl
@[simp] theorem State.setInput_tx (v : List Input) : (s.setInput v).tx = s.tx := rfl
@[simp] theorem State.setInput_rx (v : List Input) : (s.setInput v).rx = s.rx := rfl
@[simp] theorem State.setInput_res (v : List Input) : (s.setInput v).res = s.res := rfl
@[simp] theorem State.setInput_usage (v : List Input) : (s.setInput v).usage = s.usage := rfl
@[simp] theorem State.setInput_port (v : List Input) : (s.setInput v).port = s.port := rfl
@[simp] theorem State.setInput_trace (v : List Input) : (s.setInput v).trace = s.trace := rfl
@[simp] theorem State.setInput_input (v : List Input) : (s.setInput v).input = v := rfl
@[simp] theorem State.setInput_draws (v : List Input) : (s.setInput v).draws = s.draws := rfl

@[simp] theorem State.nextDraw_cfg : (s.nextDraw).cfg = s.cfg := rfl
@[simp] theorem State.nextDraw_crcGen : (s.nextDraw).crcGen = s.crcGen := rfl
@[simp] theorem State.nextDraw_tx : (s.nextDraw).tx = s.tx := rfl
@[simp] theorem State.nextDraw_rx : (s.nextDraw).rx = s.rx := rfl
@[simp] theorem State.nextDraw_res : (s.nextDraw).res = s.res := rfl
@[simp] theorem State.nextDraw_usage : (s.nextDraw).usage = s.usage := rfl
@[simp] theorem State.nextDraw_port : (s.nextDraw).port = s.port := rfl
@[simp] theorem State.nextDraw_trace : (s.nextDraw).trace = s.trace := rfl
@[simp] theorem State.nextDraw_input : (s.nextDraw).input = s.input := rfl
@[simp] theorem State.nextDraw_draws : (s.nextDraw).draws = s.draws + 1 := rfl

@[simp] theorem State.emit_cfg (v : List OutEvent) : (s.emit v).cfg = s.cfg := rfl
@[simp] theorem State.emit_crcGen (v : List OutEvent) : (s.emit v).crcGen = s.crcGen := rfl
@[simp] theorem State.emit_tx (v : List OutEvent) : (s.emit v).tx = s.tx := rfl
@[simp] theorem State.emit_rx (v : List OutEvent) : (s.emit v).rx = s.rx := rfl
@[simp] theorem State.emit_res (v : List OutEvent) : (s.emit v).res = s.res := rfl
@[simp] theorem State.emit_usage (v : List OutEvent) : (s.emit v).usage = s.usage := rfl
@[simp] theorem State.emit_port (v : List OutEvent) : (s.emit v).port = s.port := rfl
@[simp] theorem State.emit_trace (v : List OutEvent) : (s.emit v).trace = s.trace ++ v := rfl
@[simp] theorem State.emit_input (v : List OutEvent) : (s.emit v).input = s.input := rfl
@[simp] theorem State.emit_draws (v : List OutEvent) : (s.emit v).draws = s.draws := rfl

end Sys2Proof.Machine
end

