-- ==== Sys2Proof/Laws/Ops.lean ====
section
/-! SUPPORT. What each shared operation does, once: the payload buffer, emission, usage errors, the outcome action, and the
check of R62. -/

namespace Sys2Proof.Machine

/-! ## The payload buffer -/

@[simp] theorem bufFind_bufPut_same (m : List Host.Cell) (i : Nat) (b : Byte) : bufFind (bufPut m i b) i = some b := by
  induction m with
  | nil => simp [bufPut, bufFind]
  | cons x m ih =>
    obtain ⟨a, c⟩ := x
    by_cases h1 : i < a
    · simp [bufPut, h1, bufFind]
    · by_cases h2 : i = a
      · simp [bufPut, h2, bufFind]
      · have h3 : ¬ a = i := fun h => h2 h.symm
        simp [bufPut, h1, h2, h3, bufFind, ih]

theorem bufFind_bufPut_other (m : List Host.Cell) {i j : Nat} (b : Byte) (h : j ≠ i) :
    bufFind (bufPut m i b) j = bufFind m j := by
  induction m with
  | nil => simp [bufPut, bufFind, Ne.symm h]
  | cons x m ih =>
    obtain ⟨a, c⟩ := x
    by_cases h1 : i < a
    · simp [bufPut, h1, bufFind, Ne.symm h]
    · by_cases h2 : i = a
      · subst h2; simp [bufPut, bufFind, Ne.symm h]
      · simp [bufPut, h1, h2, bufFind, ih]

theorem bufRises_bufPut (cap : Nat) (m : List Host.Cell) (i lo : Nat) (b : Byte) (hi : i < cap) (hlo : lo ≤ i)
    (h : bufRises cap lo m = true) : bufRises cap lo (bufPut m i b) = true := by
  induction m generalizing lo with
  | nil => simp [bufPut, bufRises, hi, hlo]
  | cons x m ih =>
    obtain ⟨a, c⟩ := x
    simp only [bufRises, Bool.and_eq_true, decide_eq_true_eq] at h
    obtain ⟨⟨hla, hac⟩, hm⟩ := h
    by_cases h1 : i < a
    · simp [bufPut, h1, bufRises, hi, hlo, hac, hm]
    · by_cases h2 : i = a
      · subst h2; simp [bufPut, bufRises, hi, hlo, hm]
      · have := ih (a + 1) (by omega) hm
        simp [bufPut, h1, h2, bufRises, hla, hac, this]

/-- Writing a cell below the capacity keeps the canonical form. -/
theorem wf_bufPut {cap : Nat} {m : List Host.Cell} {i : Nat} (b : Byte) (hi : i < cap) (h : Memory.wf cap m = true) :
    Memory.wf cap (bufPut m i b) = true :=
  bufRises_bufPut cap m i 0 b hi (Nat.zero_le i) h

/-- `BufWrite` answers exactly below the capacity, and keeps the canonical form. -/
theorem bufWrite_ok {cfg : Cfg} {u v : RxUnit} {i : Nat} {b : Byte} (h : bufWrite cfg u i b = .ok v) :
    i < cfg.payloadCap ∧ v = { u with buf := bufPut u.buf i b } := by
  unfold bufWrite at h
  split at h
  · cases h; exact ⟨by assumption, rfl⟩
  · cases h

theorem bufWrite_eq {cfg : Cfg} {u : RxUnit} {i : Nat} (b : Byte) (h : i < cfg.payloadCap) :
    bufWrite cfg u i b = .ok { u with buf := bufPut u.buf i b } := by
  simp [bufWrite, h]

/-- A read sees only the buffer and the draw it comes from. -/
theorem bufRead_congr {cfg : Cfg} {u v : RxUnit} (a : Nat) (hb : v.buf = u.buf) (hs : v.bufSeed = u.bufSeed) :
    bufRead cfg v a = bufRead cfg u a := by
  simp [bufRead, hb, hs]

/-- The buffer right after reset is in canonical form. -/
theorem wf_reset (c : Cfg) : Memory.wf c.payloadCap (State.resetOf c).rx.buf = true := rfl

/-! ## Emission, usage errors, outcomes -/

section
variable (s : State) (bs : List Byte) (w : EventWord) (code : UsageCode) (o : RxOutcome)

@[simp] theorem emitTx_cfg : (emitTx s bs).cfg = s.cfg := rfl
@[simp] theorem emitTx_crcGen : (emitTx s bs).crcGen = s.crcGen := rfl
@[simp] theorem emitTx_tx : (emitTx s bs).tx = { s.tx with out := s.tx.out ++ bs } := rfl
@[simp] theorem emitTx_rx : (emitTx s bs).rx = s.rx := rfl
@[simp] theorem emitTx_res : (emitTx s bs).res = s.res := rfl
@[simp] theorem emitTx_usage : (emitTx s bs).usage = s.usage := rfl
@[simp] theorem emitTx_port : (emitTx s bs).port = s.port := rfl
@[simp] theorem emitTx_trace : (emitTx s bs).trace = s.trace ++ bs.map .txByte := rfl
@[simp] theorem emitTx_input : (emitTx s bs).input = s.input := rfl
@[simp] theorem emitTx_draws : (emitTx s bs).draws = s.draws := rfl

/-- A usage error changes the two flags and the trace, and nothing else (R222). -/
theorem raiseUsage_eq : raiseUsage w code s =
    { s with usage := { err := true, code := code }, trace := s.trace ++ [.usageErr w code] } := rfl

@[simp] theorem raiseUsage_cfg : (raiseUsage w code s).cfg = s.cfg := rfl
@[simp] theorem raiseUsage_crcGen : (raiseUsage w code s).crcGen = s.crcGen := rfl
@[simp] theorem raiseUsage_tx : (raiseUsage w code s).tx = s.tx := rfl
@[simp] theorem raiseUsage_rx : (raiseUsage w code s).rx = s.rx := rfl
@[simp] theorem raiseUsage_res : (raiseUsage w code s).res = s.res := rfl
@[simp] theorem raiseUsage_usage : (raiseUsage w code s).usage = { err := true, code := code } := rfl
@[simp] theorem raiseUsage_port : (raiseUsage w code s).port = s.port := rfl
@[simp] theorem raiseUsage_trace : (raiseUsage w code s).trace = s.trace ++ [.usageErr w code] := rfl
@[simp] theorem raiseUsage_input : (raiseUsage w code s).input = s.input := rfl
@[simp] theorem raiseUsage_draws : (raiseUsage w code s).draws = s.draws := rfl

/-- The outcome action changes the result registers, the trace, `rx_state` and `rx_idx`, and nothing else (R176). -/
theorem takeOutcome_eq : takeOutcome o s =
    { s with res := outcomeRes o s.rx s.res, trace := s.trace ++ [outcomeEvent s.cfg o s.rx],
             rx := { s.rx with state := .seekSync0, idx := 0#16 } } := rfl

@[simp] theorem takeOutcome_cfg : (takeOutcome o s).cfg = s.cfg := rfl
@[simp] theorem takeOutcome_crcGen : (takeOutcome o s).crcGen = s.crcGen := rfl
@[simp] theorem takeOutcome_tx : (takeOutcome o s).tx = s.tx := rfl
@[simp] theorem takeOutcome_rx : (takeOutcome o s).rx = { s.rx with state := .seekSync0, idx := 0#16 } := rfl
@[simp] theorem takeOutcome_res : (takeOutcome o s).res = outcomeRes o s.rx s.res := rfl
@[simp] theorem takeOutcome_usage : (takeOutcome o s).usage = s.usage := rfl
@[simp] theorem takeOutcome_port : (takeOutcome o s).port = s.port := rfl
@[simp] theorem takeOutcome_trace :
    (takeOutcome o s).trace = s.trace ++ [outcomeEvent s.cfg o s.rx] := rfl
@[simp] theorem takeOutcome_input : (takeOutcome o s).input = s.input := rfl
@[simp] theorem takeOutcome_draws : (takeOutcome o s).draws = s.draws := rfl
end

@[simp] theorem outcomeRes_status (o : RxOutcome) (u : RxUnit) (r : ResRegs) : (outcomeRes o u r).status = o.status := by
  cases o <;> rfl

@[simp] theorem outcomeRes_stage (o : RxOutcome) (u : RxUnit) (r : ResRegs) : (outcomeRes o u r).stage = o.stage := by
  cases o <;> rfl

/-- Every outcome's output event is an RX outcome and no usage error. -/
@[simp] theorem outcomeEvent_isRxOutcome (cfg : Cfg) (o : RxOutcome) (u : RxUnit) :
    (outcomeEvent cfg o u).isRxOutcome = true := by
  cases o <;> rfl

@[simp] theorem outcomeEvent_isUsageErr (cfg : Cfg) (o : RxOutcome) (u : RxUnit) :
    (outcomeEvent cfg o u).isUsageErr = false := by
  cases o <;> rfl

/-! ## Sequencing -/

@[simp] theorem andThen_next (s : State) (k : State → Host.Outcome State Fault Refusal) :
    andThen (.next s) k = k s := rfl
@[simp] theorem andThen_fault (f : Fault) (k : State → Host.Outcome State Fault Refusal) :
    andThen (.fault f) k = .fault f := rfl
@[simp] theorem andThen_refused (r : Refusal) (k : State → Host.Outcome State Fault Refusal) :
    andThen (.refused r) k = .refused r := rfl

theorem andThen_eq_next {o : Host.Outcome State Fault Refusal} {k : State → Host.Outcome State Fault Refusal}
    {t : State} : andThen o k = .next t ↔ ∃ u, o = .next u ∧ k u = .next t := by
  cases o <;> simp

/-! ## The check of R62 -/

theorem breachUnless_eq_none {ok : Bool} {f : Fault} {rest : Option Fault} :
    breachUnless ok f rest = none ↔ ok = true ∧ rest = none := by
  cases ok <;> simp [breachUnless]

theorem txBreach_eq_none (u : TxUnit) : txBreach u = none ↔ (u.state = .idle ↔ u.rem = 0#16) := by
  simp [txBreach, breachUnless_eq_none]

theorem resBreach_eq_none (cfg : Cfg) (r : ResRegs) : resBreach cfg r = none ↔
    r.status ≠ .reserved6 ∧ r.status ≠ .reserved7 ∧ (r.status = .lenErr → cfg.payloadCap < 65535) ∧
      (r.status = .syncErr → cfg.sync1Mismatch = .report) := by
  cases h : r.status <;> simp [resBreach, h, breachUnless_eq_none]

/-- The model's check of R62 answers nothing exactly when the state meets R62. -/
theorem breach_eq_none (s : State) : breach s = none ↔ MeetsR62 s := by
  have hb : breach s = none ↔ rxBreach s.cfg s.rx = none ∧ txBreach s.tx = none ∧ resBreach s.cfg s.res = none := by
    unfold breach
    cases rxBreach s.cfg s.rx <;> simp
    cases txBreach s.tx <;> simp
  rw [hb, txBreach_eq_none, resBreach_eq_none]
  constructor
  · rintro ⟨hr, ht, hs⟩
    refine ⟨?_, ?_, ?_, ?_, ?_, ht, hs⟩ <;>
      · cases h : s.rx.state <;>
          simp_all [rxBreach, breachUnless_eq_none, RxState.isNamed, BitVec.lt_def]
  · intro h
    refine ⟨?_, h.tx, h.res⟩
    have h1 := h.named
    have h2 := h.seek
    have h3 := h.header
    have h4 := h.payload
    have h5 := h.trailer
    cases hst : s.rx.state <;>
      simp_all [rxBreach, breachUnless_eq_none, RxState.isNamed, BitVec.lt_def]

theorem unlessBroken_of_meets {s : State} (h : MeetsR62 s) (t : Host.Outcome State Fault Refusal) :
    unlessBroken s t = t := by
  simp [unlessBroken, (breach_eq_none s).2 h]

theorem unlessBroken_eq_next {s t : State} {x : Host.Outcome State Fault Refusal} :
    unlessBroken s x = .next t ↔ MeetsR62 s ∧ x = .next t := by
  rw [← breach_eq_none]
  unfold unlessBroken
  cases breach s <;> simp

/-! ## One step -/

/-- What a step that answers a next state did: nothing, an event word, a reset edge, or a cycle of events. -/
theorem step_eq_next {s t : State} (h : step s = .next t) :
    s.cfg.legal = true ∧
      ((s.input = [] ∧ MeetsR62 s ∧ t = s) ∨
       (∃ w rest, s.input = .word w :: rest ∧ MeetsR62 s ∧ applyWord w (s.setInput rest) = .next t) ∨
       (∃ p rest, s.input = .cycle p :: rest ∧ p.rst = true ∧ t = resetEdge (s.setInput rest)) ∨
       (∃ p rest, s.input = .cycle p :: rest ∧ p.rst = false ∧ MeetsR62 s ∧
          eventEdge p (s.setInput rest) = .next t)) := by
  unfold step advance at h
  split at h
  case isFalse => cases h
  case isTrue hl =>
    refine ⟨hl, ?_⟩
    unfold takeInput at h
    split at h
    case h_1 hi =>
      obtain ⟨hm, ht⟩ := unlessBroken_eq_next.1 h
      cases ht
      exact .inl ⟨hi, hm, rfl⟩
    case h_2 w rest hi =>
      obtain ⟨hm, ht⟩ := unlessBroken_eq_next.1 h
      exact .inr (.inl ⟨w, rest, hi, hm, ht⟩)
    case h_3 p rest hi =>
      split at h
      case isTrue hr =>
        cases h
        exact .inr (.inr (.inl ⟨p, rest, hi, hr, rfl⟩))
      case isFalse hr =>
        obtain ⟨hm, ht⟩ := unlessBroken_eq_next.1 h
        exact .inr (.inr (.inr ⟨p, rest, hi, by simpa using hr, hm, ht⟩))

end Sys2Proof.Machine
end

