-- ==== Sys2Proof/Laws/Exec.lean ====
section
/-! SUPPORT. One inversion lemma per meaning and per case of the decoder: if it answers a next state (or next registers),
then these are all it can have done. Provers cite these instead of unfolding `exec`. -/

namespace Sys2Proof.Machine

/-! ## The meanings -/

@[simp] theorem exec_nop (s : State) : exec .nop s = .next s := rfl
@[simp] theorem exec_crcInit (s : State) : exec .crcInit s = .next (s.setCrcGen s.cfg.crcInit) := rfl
@[simp] theorem exec_crcByte (b : Byte) (s : State) :
    exec (.crcByte b) s = .next (s.setCrcGen (crcStep s.cfg s.crcGen b)) := rfl
@[simp] theorem exec_errClr (s : State) : exec .errClr s = .next (clearUsage s) := rfl

/-- `TX_START` that answers `t` was a usage error in `PAYLOAD`, or opened a frame in `IDLE`. -/
theorem exec_txStart_cases {t : Byte} {n : Half} {s u : State} (h : exec (.txStart t n) s = .next u) :
    (s.tx.state = .payload ∧ u = raiseUsage (encode (.txStart t n)) .txBusy s) ∨
      (s.tx.state = .idle ∧ u = txOpen t n s) := by
  cases hs : s.tx.state <;> simp_all [exec, execTxStart]

/-- `TX_BYTE` that answers `t` was a usage error in `IDLE`, or passed a byte of an open frame. -/
theorem exec_txByte_cases {b : Byte} {s u : State} (h : exec (.txByte b) s = .next u) :
    (s.tx.state = .idle ∧ u = raiseUsage (encode (.txByte b)) .txIdle s) ∨
      (s.tx.state = .payload ∧ s.tx.rem ≠ 0#16 ∧ u = txPass b s) := by
  cases hs : s.tx.state
  case idle => simp_all [exec, execTxByte]
  case payload =>
    by_cases hr : s.tx.rem = 0#16 <;> simp_all [exec, execTxByte]

/-- `TX_START` in `IDLE`, as one record: what `txOpen` leaves. -/
theorem txOpen_eq (t : Byte) (n : Half) (s : State) : txOpen t n s =
    { s with
      tx := { state := if n = 0#16 then s.tx.state else .payload, rem := if n = 0#16 then s.tx.rem else n,
              crc := crc16 s.cfg (txHeader s.cfg t n),
              out := s.tx.out ++ ([s.cfg.sync0, s.cfg.sync1] ++ txHeader s.cfg t n ++
                if n = 0#16 then crcBytes (crc16 s.cfg (txHeader s.cfg t n)) else []) }
      trace := s.trace ++ ([s.cfg.sync0, s.cfg.sync1] ++ txHeader s.cfg t n ++
                if n = 0#16 then crcBytes (crc16 s.cfg (txHeader s.cfg t n)) else []).map .txByte } := by
  unfold txOpen
  by_cases hn : n = 0#16 <;> simp [hn, emitTx, State.setTx, State.emit, List.append_assoc]

/-- `TX_BYTE` of an open frame, as one record: what `txPass` leaves. -/
theorem txPass_eq (b : Byte) (s : State) : txPass b s =
    { s with
      tx := { state := if s.tx.rem - 1#16 = 0#16 then .idle else s.tx.state, rem := s.tx.rem - 1#16,
              crc := crcStep s.cfg s.tx.crc b,
              out := s.tx.out ++ ([b] ++ if s.tx.rem - 1#16 = 0#16 then crcBytes (crcStep s.cfg s.tx.crc b) else []) }
      trace := s.trace ++
        ([b] ++ if s.tx.rem - 1#16 = 0#16 then crcBytes (crcStep s.cfg s.tx.crc b) else []).map .txByte } := by
  unfold txPass
  dsimp only [State.setTx, emitTx, State.emit]
  split <;> rename_i hr
  · simp only [hr, List.map_append, List.append_assoc]
  · simp only [List.append_nil]

/-- The state an RX byte leaves, from what it did to the RX unit. -/
def afterRx (s : State) (u : RxUnit) : Option RxOutcome → State
  | none => s.setRx u
  | some o => takeOutcome o (s.setRx u)

/-- `RX_BYTE` that answers `t` took one step of the RX unit, and the outcome action if that step ended the attempt. -/
theorem exec_rxByte_eq_next {b : Byte} {s t : State} :
    exec (.rxByte b) s = .next t ↔ ∃ u o, rxStep s.cfg b s.rx = .ok (u, o) ∧ t = afterRx s u o := by
  show execRxByte b s = .next t ↔ _
  unfold execRxByte
  rcases h : rxStep s.cfg b s.rx with f | ⟨u, _ | o⟩ <;> simp [afterRx, eq_comm]

/-- `RX_TIMEOUT` that answers `t` met a named state and took the outcome action. -/
theorem exec_rxTimeout_eq_next {s t : State} : exec .rxTimeout s = .next t ↔
    s.rx.state.isNamed = true ∧ t = takeOutcome (.timeout s.rx.state) s := by
  show execRxTimeout s = .next t ↔ _
  unfold execRxTimeout
  cases s.rx.state.isNamed <;> simp [eq_comm]

/-! ## One byte in the RX unit -/

/-- In `HEADER` a byte that is accepted is one of four; the fourth completes the header. -/
theorem rxHeader_ok {cfg : Cfg} {b : Byte} {u v : RxUnit} {o : Option RxOutcome} (h : rxHeader cfg b u = .ok (v, o)) :
    u.idx.toNat < 4 ∧
      ((u.idx + 1#16 ≠ 4#16 ∧ o = none ∧
          v = { u with hdr := u.hdr.put u.idx.toNat b, crc := crcStep cfg u.crc b, idx := u.idx + 1#16 }) ∨
       (u.idx + 1#16 = 4#16 ∧ (v, o) = rxHeaderComplete cfg
          { u with hdr := u.hdr.put u.idx.toNat b, crc := crcStep cfg u.crc b, idx := u.idx + 1#16 })) := by
  unfold rxHeader at h
  split at h
  case isFalse => cases h
  case isTrue hi =>
    refine ⟨hi, ?_⟩
    dsimp only at h
    split at h
    case isTrue h4 => exact .inr ⟨h4, by simpa using h.symm⟩
    case isFalse h4 =>
      cases h
      exact .inl ⟨h4, rfl, rfl⟩

/-- In `PAYLOAD` a byte that is accepted goes into the buffer at `rx_idx`; the last one leads to the trailer. No outcome. -/
theorem rxPayload_ok {cfg : Cfg} {b : Byte} {u v : RxUnit} {o : Option RxOutcome} (h : rxPayload cfg b u = .ok (v, o)) :
    u.idx < u.len ∧ u.idx.toNat < cfg.payloadCap ∧ o = none ∧
      v = { u with
        buf := bufPut u.buf u.idx.toNat b
        crc := crcStep cfg u.crc b
        state := if u.idx + 1#16 = u.len then .trailer else u.state
        idx := if u.idx + 1#16 = u.len then 0#16 else u.idx + 1#16 } := by
  unfold rxPayload at h
  split at h
  case isFalse => cases h
  case isTrue hi =>
    by_cases hc : u.idx.toNat < cfg.payloadCap
    case neg => simp [bufWrite, hc] at h
    case pos =>
      rw [bufWrite_eq b hc] at h
      dsimp only at h
      split at h <;> rename_i hl <;> cases h <;> exact ⟨hi, hc, rfl, by simp only [hl, if_true, if_false]⟩

/-- In `TRAILER` a byte that is accepted is the first, which is held, or the second, which ends the attempt. -/
theorem rxTrailer_ok {b : Byte} {u v : RxUnit} {o : Option RxOutcome} (h : rxTrailer b u = .ok (v, o)) :
    (u.idx = 0#16 ∧ o = none ∧ v = { u with trlHi := b, idx := 1#16 }) ∨
      (u.idx = 1#16 ∧ v = u ∧ o = some (rxVerify b u)) := by
  unfold rxTrailer at h
  by_cases h0 : u.idx = 0#16
  · simp [h0] at h; exact .inl ⟨h0, h.2.symm, h.1.symm⟩
  · by_cases h1 : u.idx = 1#16
    · simp [h1] at h; exact .inr ⟨h1, h.1.symm, h.2.symm⟩
    · simp [h0, h1] at h

/-- What an accepted byte met: one of the five named states, and that state's case. -/
theorem rxStep_ok {cfg : Cfg} {b : Byte} {u v : RxUnit} {o : Option RxOutcome} (h : rxStep cfg b u = .ok (v, o)) :
    (u.state = .seekSync0 ∧ o = none ∧ v = if b = cfg.sync0 then { u with state := .seekSync1 } else u) ∨
    (u.state = .seekSync1 ∧ b = cfg.sync1 ∧ o = none ∧ v = { u with state := .header, idx := 0#16, crc := cfg.crcInit }) ∨
    (u.state = .seekSync1 ∧ b ≠ cfg.sync1 ∧ (v, o) = rxSync1Mismatch cfg b u) ∨
    (u.state = .header ∧ rxHeader cfg b u = .ok (v, o)) ∨
    (u.state = .payload ∧ rxPayload cfg b u = .ok (v, o)) ∨
    (u.state = .trailer ∧ rxTrailer b u = .ok (v, o)) := by
  cases hs : u.state <;> simp only [rxStep, hs] at h
  case seekSync0 =>
    by_cases hb : b = cfg.sync0 <;> simp [rxSeekSync0, hb] at h <;> simp [hb, h.1.symm, h.2.symm]
  case seekSync1 =>
    by_cases hb : b = cfg.sync1 <;> simp [rxSeekSync1, hb] at h <;> simp [hb, h]
  case header => simp [h]
  case payload => simp [h]
  case trailer => simp [h]
  all_goals cases h

/-! ## Events seen through their unit -/

/-- A transition whose trace is that of `s` with `o` appended adds exactly `o`. -/
theorem newEvents_of_trace {s t : State} {o : List OutEvent} (h : t.trace = s.trace ++ o) : newEvents s t = o := by
  simp [newEvents, h]

/-- Emitted bytes are no usage errors. -/
@[simp] theorem txBytes_any_isUsageErr (bs : List Byte) : (bs.map OutEvent.txByte).any OutEvent.isUsageErr = false := by
  rw [List.any_map, List.any_eq_false]
  exact fun _ _ => by simp [OutEvent.isUsageErr]

/-- Emitted bytes are no outcomes. -/
theorem txBytes_isRxOutcome {bs : List Byte} {e : OutEvent} (h : e ∈ bs.map OutEvent.txByte) :
    e.isRxOutcome = false := by
  obtain ⟨b, -, rfl⟩ := List.mem_map.1 h
  rfl

/-- A TX event reads the configuration and the TX unit only: on a state that agrees with `s` in these it does what it does
on `s`. It writes the TX unit and the trace, and the usage flags exactly if it is a usage error; it reports no outcome. -/
theorem exec_tx_local {i : Instr} (hi : i.unit = .tx) {s s' v : State} (hc : s'.cfg = s.cfg) (ht : s'.tx = s.tx)
    (h : exec i s' = .next v) :
    ∃ u, exec i s = .next u ∧
      v = { s' with tx := u.tx, trace := s'.trace ++ newEvents s u,
                    usage := if (newEvents s u).any OutEvent.isUsageErr then u.usage else s'.usage } ∧
      ∀ e ∈ newEvents s u, e.isRxOutcome = false := by
  cases i <;> simp only [Instr.unit, reduceCtorEq] at hi
  case txStart t n =>
    rcases exec_txStart_cases h with ⟨hp, rfl⟩ | ⟨hp, rfl⟩ <;> rw [ht] at hp
    · refine ⟨raiseUsage (encode (.txStart t n)) .txBusy s, by simp [exec, execTxStart, hp], ?_⟩
      rw [newEvents_of_trace (raiseUsage_trace ..)]
      simp [raiseUsage_eq, ht, OutEvent.isUsageErr, OutEvent.isRxOutcome]
    · refine ⟨txOpen t n s, by simp [exec, execTxStart, hp], ?_⟩
      rw [newEvents_of_trace (by rw [txOpen_eq])]
      exact ⟨by rw [txOpen_eq, txOpen_eq, ht, hc, txBytes_any_isUsageErr]; rfl, fun _ => txBytes_isRxOutcome⟩
  case txByte b =>
    rcases exec_txByte_cases h with ⟨hp, rfl⟩ | ⟨hp, hr, rfl⟩ <;> rw [ht] at hp
    · refine ⟨raiseUsage (encode (.txByte b)) .txIdle s, by simp [exec, execTxByte, hp], ?_⟩
      rw [newEvents_of_trace (raiseUsage_trace ..)]
      simp [raiseUsage_eq, ht, OutEvent.isUsageErr, OutEvent.isRxOutcome]
    · rw [ht] at hr
      refine ⟨txPass b s, by simp [exec, execTxByte, hp, hr], ?_⟩
      rw [newEvents_of_trace (by rw [txPass_eq])]
      exact ⟨by rw [txPass_eq, txPass_eq, ht, hc, txBytes_any_isUsageErr]; rfl, fun _ => txBytes_isRxOutcome⟩

/-- An RX event reads the configuration, the RX unit and the result registers only: on a state that agrees with `s` in these
it does what it does on `s`. It writes the RX unit, the result registers and the trace, and reports at most one outcome and
nothing else. -/
theorem exec_rx_local {i : Instr} (hi : i.unit = .rx) {s s' v : State} (hc : s'.cfg = s.cfg) (hx : s'.rx = s.rx)
    (hr : s'.res = s.res) (h : exec i s' = .next v) :
    ∃ u, exec i s = .next u ∧ v = { s' with rx := u.rx, res := u.res, trace := s'.trace ++ newEvents s u } ∧
      (∀ e ∈ newEvents s u, e.isRxOutcome = true) ∧ (newEvents s u).length ≤ 1 := by
  cases i <;> simp only [Instr.unit, reduceCtorEq] at hi
  case rxByte b =>
    obtain ⟨r, o, hstep, rfl⟩ := exec_rxByte_eq_next.1 h
    rw [hc, hx] at hstep
    refine ⟨afterRx s r o, exec_rxByte_eq_next.2 ⟨r, o, hstep, rfl⟩, ?_⟩
    cases o with
    | none =>
      rw [newEvents_of_trace (o := []) (by simp [afterRx])]
      simp [afterRx, State.setRx, ← hr]
    | some o =>
      rw [newEvents_of_trace (by rw [afterRx, takeOutcome_trace]; rfl)]
      simp [afterRx, takeOutcome_eq, State.setRx, hr, hc]
  case rxTimeout =>
    obtain ⟨hn, rfl⟩ := exec_rxTimeout_eq_next.1 h
    rw [hx] at hn
    refine ⟨_, exec_rxTimeout_eq_next.2 ⟨hn, rfl⟩, ?_⟩
    rw [newEvents_of_trace (takeOutcome_trace ..)]
    simp [takeOutcome_eq, hx, hr, hc]

/-! ## Sequences of events -/

@[simp] theorem performAll_nil (s : State) : performAll [] s = .next s := rfl

@[simp] theorem performAll_cons (i : Instr) (is : List Instr) (s : State) :
    performAll (i :: is) s = andThen (exec i s) (performAll is) := rfl

theorem performAll_append (a b : List Instr) (s : State) :
    performAll (a ++ b) s = andThen (performAll a s) (performAll b) := by
  induction a generalizing s with
  | nil => rfl
  | cons i a ih =>
    rw [List.cons_append, performAll_cons, performAll_cons]
    cases exec i s <;> simp [ih]

theorem performAll_cons_eq_next {i : Instr} {is : List Instr} {s t : State} :
    performAll (i :: is) s = .next t ↔ ∃ u, exec i s = .next u ∧ performAll is u = .next t := by
  rw [performAll_cons, andThen_eq_next]

theorem performAll_append_eq_next {a b : List Instr} {s t : State} :
    performAll (a ++ b) s = .next t ↔ ∃ u, performAll a s = .next u ∧ performAll b u = .next t := by
  rw [performAll_append, andThen_eq_next]

/-- What holds before a sequence of events and is kept by each of them holds after it. -/
theorem performAll_induct {P : State → Prop} {es : List Instr} {s t : State}
    (hstep : ∀ i ∈ es, ∀ s t, P s → exec i s = .next t → P t) (hs : P s) (h : performAll es s = .next t) : P t := by
  induction es generalizing s with
  | nil => cases h; exact hs
  | cons i is ih =>
    obtain ⟨u, hu, ht⟩ := performAll_cons_eq_next.1 h
    exact ih (fun j hj => hstep j (List.mem_cons_of_mem _ hj)) (hstep i List.mem_cons_self s u hs hu) ht

/-- A cycle of events that answers `t`: the events' state, with the cycle-level registers of the edge. -/
theorem eventEdge_eq_next {p : PortIn} {s t : State} : eventEdge p s = .next t ↔
    ∃ u, performAll (portEvents p s) s = .next u ∧ t = (u.setPort (edgePorts p s u)).nextDraw := by
  unfold eventEdge
  rw [andThen_eq_next]
  simp [eq_comm]

end Sys2Proof.Machine
end

