-- ==== Sys2Proof/Laws/Cycle.lean ====
section
/-! SUPPORT. What one clock cycle without reset does, unit by unit. Provers cite `cycle_eq_next` and the case lemmas of the
TX and RX events instead of unfolding `step`. -/

namespace Sys2Proof.Machine

/-- The TX event of a cycle: the start if its handshake completes, else the byte if its does, else none (R112, R232). -/
theorem txEvents_cases (p : PortIn) (s : State) :
    (p.txStartValid = true ∧ txStartReady p s = true ∧ txEvents p s = [.txStart p.txType p.txLen]) ∨
    (p.txPlValid = true ∧ txPlReady p s = true ∧ txEvents p s = [.txByte p.txPlData]) ∨
    ((p.txStartValid && txStartReady p s) = false ∧ (p.txPlValid && txPlReady p s) = false ∧ txEvents p s = []) := by
  cases h1 : p.txStartValid <;> cases h2 : txStartReady p s <;> cases h3 : p.txPlValid <;> cases h4 : txPlReady p s <;>
    simp_all [txEvents, eventWhen, txPlReady]

/-- The RX event of a cycle: the byte if there is one, else the timeout, else none (R113, R231). -/
theorem rxEvents_cases (p : PortIn) :
    (p.rxiValid = true ∧ rxEvents p = [.rxByte p.rxiData]) ∨
    (p.rxiValid = false ∧ p.rxiTimeout = true ∧ rxEvents p = [.rxTimeout]) ∨
    (p.rxiValid = false ∧ p.rxiTimeout = false ∧ rxEvents p = []) := by
  cases h1 : p.rxiValid <;> cases h2 : p.rxiTimeout <;> simp [rxEvents, eventWhen, h1, h2]

/-- The state `ERR_CLR` and the CRC unit's events of a cycle leave (R273, R111). -/
def afterControls (p : PortIn) (s : State) : State :=
  { s with
    usage := if p.errClr then { err := false, code := .none } else s.usage
    crcGen :=
      let c := if p.crcInit then s.cfg.crcInit else s.crcGen
      if p.crcEn then crcStep s.cfg c p.crcDin else c }

/-- The events before the TX and RX ones always complete, and do this. -/
theorem performAll_controls (p : PortIn) (s : State) :
    performAll (eventWhen p.errClr .errClr ++ eventWhen p.crcInit .crcInit ++ eventWhen p.crcEn (.crcByte p.crcDin)) s =
      .next (afterControls p s) := by
  cases h1 : p.errClr <;> cases h2 : p.crcInit <;> cases h3 : p.crcEn <;>
    simp [eventWhen, afterControls, h1, h2, h3, clearUsage, State.setUsage, State.setCrcGen]

/-- A cycle's events that answer `u`: the controls, then the TX event, then the RX event. -/
theorem performAll_portEvents_eq_next {p : PortIn} {s u : State} : performAll (portEvents p s) s = .next u ↔
    ∃ v, performAll (txEvents p s) (afterControls p s) = .next v ∧ performAll (rxEvents p) v = .next u := by
  unfold portEvents
  rw [List.append_assoc, performAll_append, performAll_controls, andThen_next, performAll_append_eq_next]

/-- A cycle without reset, from an accepted configuration and a state R62 allows, and only from such, does its events and
loads the cycle-level registers of the edge. -/
theorem cycle_eq_next {p : PortIn} {s t : State} (hr : p.rst = false) : step (s.withCycle p) = .next t ↔
    s.cfg.legal = true ∧ MeetsR62 (s.withCycle p) ∧ ∃ v u,
      performAll (txEvents p s) (afterControls p (s.setInput [])) = .next v ∧ performAll (rxEvents p) v = .next u ∧
      t = (u.setPort (edgePorts p (s.setInput []) u)).nextDraw := by
  have hs : step (s.withCycle p) = if s.cfg.legal then
      unlessBroken (s.withCycle p) (eventEdge p (s.setInput [])) else .refused .illegalConfig := by
    simp [step, advance, takeInput, State.withCycle, hr, State.setInput]
  rw [hs]
  by_cases hl : s.cfg.legal = true
  case neg => simp [hl]
  case pos =>
    simp only [hl, if_true, unlessBroken_eq_next, eventEdge_eq_next, performAll_portEvents_eq_next]
    constructor
    · rintro ⟨hm, u, ⟨v, hv, hu⟩, ht⟩
      exact ⟨trivial, hm, v, u, hv, hu, ht⟩
    · rintro ⟨-, hm, v, u, hv, hu, ht⟩
      exact ⟨hm, u, ⟨v, hv, hu⟩, ht⟩

end Sys2Proof.Machine
end

