-- ==== Sys2Proof/Laws/PerInstr.lean ====
section
/-! SUPPORT. Families of statements about every instruction as syntax, one lemma per constructor. -/

namespace Sys2Proof.Laws.EncodedWordIsOfItsRow

/-- The event's word is one of the words of the opcode row with the event's mnemonic (R101). -/
def Statement (i : Instr) : Prop := ∃ r ∈ opcodeMap, r.mnemonic = i.mnemonic ∧ encode i &&& r.mask = r.pattern

theorem nop : Statement .nop := ⟨opcodeMap[0], by decide, rfl, by decide⟩

theorem crcInit : Statement .crcInit := ⟨opcodeMap[1], by decide, rfl, by decide⟩

theorem crcByte (b : Byte) : Statement (.crcByte b) := ⟨opcodeMap[2], by decide, rfl, by revert b; decide⟩

theorem txStart (t : Byte) (n : Half) : Statement (.txStart t n) := by
  refine ⟨opcodeMap[3], by decide, rfl, ?_⟩
  apply BitVec.eq_of_getLsbD_eq
  intro k hk
  simp only [encode, opcodeMap, List.getElem_cons_succ, List.getElem_cons_zero, BitVec.getLsbD_and, BitVec.getLsbD_or,
    BitVec.getLsbD_shiftLeft, BitVec.getLsbD_setWidth]
  by_cases h24 : k < 24
  · have h1 : (0xFF000000#32).getLsbD k = false := by revert k; decide
    have h2 : (0x30000000#32).getLsbD k = false := by revert k; decide
    simp [h1, h2]
  · have h1 : t.getLsbD (k - 16) = false := BitVec.getLsbD_of_ge _ _ (by omega)
    have h2 : n.getLsbD k = false := BitVec.getLsbD_of_ge _ _ (by omega)
    have h3 : ((0x30000000#32).getLsbD k && (0xFF000000#32).getLsbD k) = (0x30000000#32).getLsbD k := by
      clear h1 h2 h24; revert k; decide
    simpa [h1, h2] using h3

theorem txByte (b : Byte) : Statement (.txByte b) := ⟨opcodeMap[4], by decide, rfl, by revert b; decide⟩

theorem rxByte (b : Byte) : Statement (.rxByte b) := ⟨opcodeMap[5], by decide, rfl, by revert b; decide⟩

theorem rxTimeout : Statement .rxTimeout := ⟨opcodeMap[6], by decide, rfl, by decide⟩

theorem errClr : Statement .errClr := ⟨opcodeMap[7], by decide, rfl, by decide⟩

end Sys2Proof.Laws.EncodedWordIsOfItsRow
end

