-- ==== Sys2Proof/Tests/Slice0.lean ====
section
/-! SUPPORT. Tests on fixed values, with results from spec/95_test_vectors.md or worked examples of the rules; the smoke test
of WellFormed; and for every statement with hypotheses a witness that meets them. -/

namespace Sys2Proof.Tests

open Sys2Proof.Machine

/-! ## Helpers -/

/-- The next state of an outcome, or the given state. -/
def nextOr (d : State) : Host.Outcome State Fault Refusal → State
  | .next s => s
  | .fault _ => d
  | .refused _ => d

/-- The state after one event from `s`. -/
def after (i : Instr) (s : State) : State := nextOr s (exec i s)

/-- The state after some RX bytes from `s`. -/
def afterBytes (bs : List Byte) (s : State) : State := bs.foldl (fun s b => after (.rxByte b) s) s

/-- Reset with another setting of `SYNC1_MISMATCH`. -/
def resetUnder (m : Sync1Mismatch) : State := State.resetOf { Cfg.default with sync1Mismatch := m }

/-- A TX frame with `n` bytes owed. -/
def openFrame (n : Half) : State := { State.reset with tx := { State.reset.tx with state := .payload, rem := n } }

/-- The RX unit in a given state, index and length. -/
def rxAt (st : RxState) (i n : Half) : State :=
  { State.reset with rx := { State.reset.rx with state := st, idx := i, len := n } }

/-- A clock cycle with no request. -/
def quiet : PortIn :=
  { rst := false, crcInit := false, crcEn := false, crcDin := 0, txStartValid := false, txType := 0, txLen := 0,
    txPlValid := false, txPlData := 0, txoReady := false, rxiValid := false, rxiData := 0, rxiTimeout := false,
    rxbAddr := 0, errClr := false }

/-! ## WellFormed: an ill-formed term for each check -/

theorem smoke_default_config_is_legal : Cfg.default.legal = true := by decide
theorem smoke_equal_sync_bytes_refused : { Cfg.default with sync1 := 0xAA }.legal = false := by decide
theorem smoke_zero_capacity_refused : { Cfg.default with payloadCap := 0 }.legal = false := by decide
theorem smoke_wide_capacity_refused : { Cfg.default with payloadCap := 65536 }.legal = false := by decide
theorem smoke_short_queue_refused : { Cfg.default with txqDepth := 7 }.legal = false := by decide
theorem smoke_wide_byte_refused : (Asm.crcByte 0x100).wellFormed = false ∧ (Asm.txByte 0x100).wellFormed = false ∧
    (Asm.rxByte 0x100).wellFormed = false := by decide
theorem smoke_wide_type_or_length_refused : (Asm.txStart 0x100 0).wellFormed = false ∧
    (Asm.txStart 0 0x10000).wellFormed = false := by decide
theorem smoke_wide_word_refused : (Asm.word 0x100000000).wellFormed = false := by decide
theorem smoke_wide_list_element_refused : (Asm.crcBytes [0, 0x100]).wellFormed = false ∧
    (Asm.crcOf [0x100]).wellFormed = false ∧ (Asm.rxBytes [0x100]).wellFormed = false ∧
    (Asm.txFrame 0x100 []).wellFormed = false ∧ (Asm.txFrame 0 [0x100]).wellFormed = false ∧
    (Asm.rxFrame 0x100 []).wellFormed = false ∧ (Asm.rxFrame 0 [0x100]).wellFormed = false := by decide

/-! ## Decoding: words of spec/95 §3.5 -/

theorem test_decode_nop : decode 0x00000000#32 = .event .nop := by decide
theorem test_decode_crcInit : decode 0x10000000#32 = .event .crcInit := by decide
theorem test_decode_crcByte : decode 0x200000FF#32 = .event (.crcByte 0xFF) := by decide
theorem test_decode_txStart : decode 0x3004FFFF#32 = .event (.txStart 0x04 0xFFFF) := by decide
theorem test_decode_txByte : decode 0x400000AA#32 = .event (.txByte 0xAA) := by decide
theorem test_decode_rxByte : decode 0x50000055#32 = .event (.rxByte 0x55) := by decide
theorem test_decode_rxTimeout : decode 0x60000000#32 = .event .rxTimeout := by decide
theorem test_decode_errClr : decode 0x70000000#32 = .event .errClr := by decide
theorem test_decode_stray_bits : [0x10000001#32, 0x20000100#32, 0x31000000#32, 0x60000001#32, 0x00000001#32,
    0x21000000#32, 0x7000FFFF#32, 0x0FFFFFFF#32].map decode = List.replicate 8 (.malformed .mustBeZero) := by decide
theorem test_decode_reserved : [0x80000000#32, 0xF0000000#32].map decode = List.replicate 2 (.malformed .reservedOp) := by
  decide
theorem test_table_word : decodeTableWord 32 0x3004FFFF = some (.txStart 0x04 0xFFFF) := by decide

/-- 30_encoding.md R107: `tx.frame 0x03, [0x01, 0x01, 0xF4]` (program P2). -/
theorem test_assemble_frame : assemble Cfg.default (.txFrame 3 [1, 1, 0xF4]) =
    some [0x30030003#32, 0x40000001#32, 0x40000001#32, 0x400000F4#32] := by decide +kernel

/-! ## CRC: spec/95 §3.1 -/

theorem test_crc_step : crcStep Cfg.default 0x1234 0x56 = 0x3C40 := by decide +kernel
theorem test_crc_check_value :
    crc16 Cfg.default [0x31, 0x32, 0x33, 0x34, 0x35, 0x36, 0x37, 0x38, 0x39] = 0x29B1 := by decide +kernel
theorem test_crc_other_init :
    crc16 { Cfg.default with crcInit := 0 } [0x31, 0x32, 0x33, 0x34, 0x35, 0x36, 0x37, 0x38, 0x39] = 0x31C3 := by decide +kernel

/-! ## Events: one step each -/

/-- R200's worked example. -/
theorem test_nop : after .nop (openFrame 1) = openFrame 1 := by decide +kernel
/-- R123's worked example. -/
theorem test_crcInit : (after .crcInit (State.reset.setCrcGen 0x29B1)).crcGen = 0xFFFF := by decide +kernel
/-- V-CRC-06. -/
theorem test_crcByte : (after (.crcByte 0x31) State.reset).crcGen = 0xC782 := by decide +kernel
/-- V-TX-01. -/
theorem test_txStart_empty : (after (.txStart 0x01 0) State.reset).tx =
    { state := .idle, rem := 0, crc := 0xC544, out := [0xAA, 0x55, 0x01, 0x01, 0x00, 0x00, 0xC5, 0x44] } := by decide +kernel
/-- V-TX-07. -/
theorem test_txStart_long : (after (.txStart 0xFF 65535) State.reset).tx =
    { state := .payload, rem := 0xFFFF, crc := 0x2018, out := [0xAA, 0x55, 0x01, 0xFF, 0xFF, 0xFF] } := by decide +kernel
/-- V-TX-06: the last byte of a frame. -/
theorem test_txByte_last : (after (.txByte 0x01) (after (.txStart 0x04 1) State.reset)).tx =
    { state := .idle, rem := 0, crc := 0x52BC, out := [0xAA, 0x55, 0x01, 0x04, 0x00, 0x01, 0x01, 0x52, 0xBC] } := by decide +kernel
/-- V-TX-08. -/
theorem test_txByte_idle : (after (.txByte 0x10) State.reset).trace = [.usageErr 0x40000010 .txIdle] := by decide +kernel
/-- V-RX-10's first frame. -/
theorem test_rxByte_frame : (afterBytes [0xAA, 0x55, 0x01, 0x01, 0x00, 0x00, 0xC5, 0x44] State.reset).trace =
    [.rxFrameOk 0x01 0x01 []] := by decide +kernel
/-- V-RX-07. -/
theorem test_rxByte_crcErr : (afterBytes [0xAA, 0x55, 0x01, 0x04, 0x00, 0x01, 0x00, 0x52, 0xBC] State.reset).trace =
    [.rxCrcErr 0x01 0x04 1 0x52BC 0x429D] := by decide +kernel
/-- V-RX-12. -/
theorem test_rxTimeout : status (after .rxTimeout State.reset) = 0x00000200 := by decide +kernel
/-- R201's worked example. -/
theorem test_errClr : (after .errClr (after (.txByte 0x10) State.reset)).usage = { err := false, code := .none } := by decide +kernel
/-- V-DEC-13. -/
theorem test_malformed : status (nextOr State.reset (applyWord 0x80000000 State.reset)) = 0x00000030 := by decide +kernel

/-! ## Steps and cycles -/

/-- The word placed for the fetch runs as the first event after reset (V-DEC-03). -/
theorem test_fetch : (nextOr State.reset (step (State.reset.withFetchWord 32 0x200000FF))).crcGen = 0xFF00 := by decide +kernel
/-- Spec/95 §4, cycle 0: six bytes enter the queue. -/
theorem test_cycle_start : (nextOr State.reset (step (State.reset.withCycle
    { quiet with txStartValid := true, txType := 0x04, txLen := 1 }))).port.txq =
    [0xAA, 0x55, 0x01, 0x04, 0x00, 0x01] := by decide +kernel
/-- R112: `txo_data` shows the oldest byte, and a cycle with `txo_ready` = 1 removes it. -/
theorem test_cycle_drain :
    txoData { State.reset with port := { State.reset.port with txq := [0xAA, 0x55] } } = 0xAA ∧
    (nextOr State.reset (step ({ State.reset with port := { State.reset.port with txq := [0xAA, 0x55] } }.withCycle
      { quiet with txoReady := true }))).port.txq = [0x55] := by decide +kernel
/-- R231: a byte beats a timeout. -/
theorem test_cycle_byte_beats_timeout : (nextOr State.reset (step (State.reset.withCycle
    { quiet with rxiValid := true, rxiData := 0xAA, rxiTimeout := true }))).rx.state = .seekSync1 := by decide +kernel
/-- R115: `rx_done` after a timeout. -/
theorem test_cycle_rx_done : (nextOr State.reset (step (State.reset.withCycle
    { quiet with rxiTimeout := true }))).port.rxDone = true := by decide +kernel

/-! ## Witnesses: for each statement with hypotheses, states and operands that meet them -/

theorem witness_EncodeOfDecodeIsTheWord : decode 0x3004FFFF#32 = .event (.txStart 0x04 0xFFFF) := by decide

theorem witness_OperandsAreTheWordsFields :
    decode 0x200000FF#32 = .event (.crcByte 0xFF) ∧ decode 0x400000FF#32 = .event (.txByte 0xFF) ∧
    decode 0x500000FF#32 = .event (.rxByte 0xFF) ∧ decode 0x30FF0000#32 = .event (.txStart 0xFF 0) := by decide

theorem witness_OpcodeMapIsCompleteAndDisjoint :
    (∀ r ∈ opcodeMap, ¬ r.matchesWord 0x80000000#32) ∧ opcodeMap[0] ∈ opcodeMap := by
  constructor
  · simp [opcodeMap, OpcodeRow.matchesWord]
  · simp

theorem witness_MalformedWordOnlyRaisesUsageError :
    decode 0x31000000#32 = .malformed .mustBeZero ∧ decode 0xF0000000#32 = .malformed .reservedOp := by decide

theorem witness_CrcDetectsEverySingleBitFlip :
    Cfg.default.crcPoly.getLsbD 0 = true ∧ 1 < ([0x31, 0x32] : List Byte).length ∧ 7 < 8 := by decide

/-- One CRC computation with events of other units between its bytes. -/
def interleavedCrc : List Instr := [.nop, .crcInit, .rxByte 0xAA, .txByte 0x10, .crcByte 0x31, .errClr, .crcByte 0x32]

theorem witness_GeneratorComputesCrc16 :
    interleavedCrc.filter (fun i => i.unit == .crc) = .crcInit :: ([0x31, 0x32] : List Byte).map .crcByte ∧
      ∃ t, performAll interleavedCrc State.reset = .next t := ⟨by decide, _, rfl⟩

theorem witness_TxStartOpensAFrame : (openFrame 1).tx.state = .payload ∧ State.reset.tx.state = .idle := by decide

theorem witness_TxBytePassesOneByte :
    State.reset.tx.state = .idle ∧ ((openFrame 1).tx.state = .payload ∧ (openFrame 1).tx.rem ≠ 0#16) ∧
      ((openFrame 0xFFFF).tx.state = .payload ∧ (openFrame 0xFFFF).tx.rem ≠ 0#16) := by decide

theorem witness_OpenFrameEndsOnlyByItsBytes :
    (openFrame 1).tx.state = .payload ∧ (∃ t, exec (.txByte 0x01) (openFrame 1) = .next t) ∧
      ∃ t, exec (.txStart 0x05 0) (openFrame 1) = .next t := ⟨rfl, ⟨_, rfl⟩, ⟨_, rfl⟩⟩

theorem witness_EncoderEmitsBuildFrame :
    ([0x01] : List Byte).length ≤ 65535 ∧ State.reset.tx.state = .idle ∧
      [Instr.txStart 0x04 1, .crcInit, .txByte 0x01].filter (fun i => i.unit == .tx) =
        .txStart 0x04 (BitVec.ofNat 16 ([0x01] : List Byte).length) :: ([0x01] : List Byte).map .txByte ∧
      ∃ u, performAll [.txStart 0x04 1, .crcInit, .txByte 0x01] State.reset = .next u :=
  ⟨by decide, rfl, by decide, _, rfl⟩

theorem witness_SyncBytesFindTheMarker :
    State.reset.rx.state = .seekSync0 ∧
      ((rxAt .seekSync1 0 0).rx.state = .seekSync1 ∧ (0x55 : Byte) = (rxAt .seekSync1 0 0).cfg.sync1) := by decide

/-- In `SEEK_SYNC1` under a setting of `SYNC1_MISMATCH`. -/
def seek1Under (m : Sync1Mismatch) : State :=
  { resetUnder m with rx := { (resetUnder m).rx with state := .seekSync1 } }

theorem witness_WrongSecondSyncByte :
    ((seek1Under .rescan).rx.state = .seekSync1 ∧ (0xAA : Byte) ≠ (seek1Under .rescan).cfg.sync1) ∧
      ((seek1Under .rescan).cfg.sync1Mismatch = .rescan ∧ (seek1Under .discard).cfg.sync1Mismatch = .discard ∧
        (seek1Under .report).cfg.sync1Mismatch = .report) ∧
      (seek1Under .discard).rx.state = .seekSync1 ∧ (seek1Under .report).rx.state = .seekSync1 ∧
      (0x00 : Byte) ≠ (seek1Under .report).cfg.sync1 := by decide

theorem witness_HeaderByteIsStored :
    (rxAt .header 0 0).rx.state = .header ∧ (rxAt .header 0 0).rx.idx.toNat ≤ 2 ∧
      (rxAt .header 2 0).rx.idx.toNat ≤ 2 := by decide

/-- In `HEADER` before the fourth byte, with a given length high byte and capacity. -/
def beforeFourth (hi : Byte) (cap : Nat) : State :=
  let s := rxAt .header 3 0
  { s with cfg := { s.cfg with payloadCap := cap }, rx := { s.rx with hdr := { s.rx.hdr with lenHi := hi } } }

theorem witness_FourthHeaderByteSetsTheLength :
    ((beforeFourth 0 2).rx.state = .header ∧ (beforeFourth 0 2).rx.idx = 3#16) ∧
      (beforeFourth 0 2).cfg.payloadCap < (be16 (beforeFourth 0 2).rx.hdr.lenHi 3).toNat ∧
      ((be16 (beforeFourth 0 2).rx.hdr.lenHi 0).toNat ≤ 2 ∧ be16 (beforeFourth 0 2).rx.hdr.lenHi 0 = 0#16) ∧
      ((be16 (beforeFourth 0xFF 65535).rx.hdr.lenHi 0xFF).toNat ≤ (beforeFourth 0xFF 65535).cfg.payloadCap ∧
        be16 (beforeFourth 0xFF 65535).rx.hdr.lenHi 0xFF ≠ 0#16) := by decide

theorem witness_PayloadByteIsBuffered :
    (rxAt .payload 0 1).rx.state = .payload ∧
      ((rxAt .payload 0 1).rx.idx.toNat < (rxAt .payload 0 1).rx.len.toNat ∧
        (rxAt .payload 0 1).rx.idx.toNat < (rxAt .payload 0 1).cfg.payloadCap) ∧
      ((rxAt .payload 65534 65535).rx.idx.toNat < (rxAt .payload 65534 65535).rx.len.toNat ∧
        (rxAt .payload 65534 65535).rx.idx.toNat < (rxAt .payload 65534 65535).cfg.payloadCap) := by decide

theorem witness_TrailerBytesVerifyTheFrame :
    (rxAt .trailer 0 0).rx.state = .trailer ∧ (rxAt .trailer 0 0).rx.idx = 0#16 ∧
      (rxAt .trailer 1 0).rx.idx = 1#16 ∧
      be16 0xFF 0xFF = (rxAt .trailer 1 0).rx.crc ∧ be16 0x00 0x00 ≠ (rxAt .trailer 1 0).rx.crc := by decide

theorem witness_ResidueTestIsTheComparison : Cfg.default.crcPoly.getLsbD 0 = true := by decide

theorem witness_TimeoutIsAnOutcomeInEveryState :
    [RxState.seekSync0, .seekSync1, .header, .payload, .trailer].all
      (fun st => (rxAt st 0 1).rx.state.isNamed) = true := by decide

theorem witness_RxEventsFaultInUnreachableStates :
    (rxAt .reserved5 0 0).rx.state.isNamed = false ∧
      ((rxAt .header 4 0).rx.state = .header ∧ 3 < (rxAt .header 4 0).rx.idx.toNat) ∧
      ((rxAt .payload 1 1).rx.state = .payload ∧
        (rxAt .payload 1 1).rx.len.toNat ≤ (rxAt .payload 1 1).rx.idx.toNat) ∧
      ((rxAt .trailer 2 0).rx.state = .trailer ∧ 1 < (rxAt .trailer 2 0).rx.idx.toNat) := by decide

theorem witness_OutcomeWritesItsResultRegisters :
    ∃ t, exec .rxTimeout State.reset = .next t ∧ newEvents State.reset t = [.rxTimeout .seekSync0] := ⟨_, rfl, rfl⟩

theorem witness_OutcomeWritesItsResultRegisters_none :
    ∃ t, exec .nop State.reset = .next t ∧ (newEvents State.reset t).any OutEvent.isRxOutcome = false := ⟨_, rfl, rfl⟩

theorem witness_OutcomeLeavesNoPartialFrame :
    ∃ t, exec .rxTimeout (rxAt .payload 0 1) = .next t ∧
      (newEvents (rxAt .payload 0 1) t).any OutEvent.isRxOutcome = true := ⟨_, rfl, rfl⟩

theorem witness_AtMostOneReportPerEvent :
    (∃ t, applyWord 0x60000000#32 State.reset = .next t) ∧ ∃ t, applyWord 0x80000000#32 State.reset = .next t :=
  ⟨⟨_, rfl⟩, ⟨_, rfl⟩⟩

theorem witness_ConfigurationExcludesOutcomes :
    (∃ t, exec (.rxByte 3) (beforeFourth 0 2) = .next t ∧ OutEvent.rxLenErr 0 0 3 ∈ newEvents (beforeFourth 0 2) t) ∧
      ∃ t, exec (.rxByte 0) (seek1Under .report) = .next t ∧
        OutEvent.rxSyncErr 0 ∈ newEvents (seek1Under .report) t :=
  ⟨⟨_, rfl, List.mem_singleton.2 rfl⟩, ⟨_, rfl, List.mem_singleton.2 rfl⟩⟩

theorem witness_DecoderClosedForm :
    State.reset.rx.state = .seekSync0 ∧
      ((be16 0x00 0x01).toNat = ([0x01] : List Byte).length ∧
        ([0x01] : List Byte).length ≤ State.reset.cfg.payloadCap) := by decide

theorem witness_DecodeOfEncodeGivesTheFrames :
    State.reset.rx.state = .seekSync0 ∧ ∀ f ∈ [((0x01 : Byte), ([] : List Byte)), (0x04, [0x01])],
      f.2.length ≤ State.reset.cfg.payloadCap ∧ f.2.length ≤ 65535 := by
  refine ⟨rfl, ?_⟩
  simp [State.reset, State.resetOf, Cfg.default]

theorem witness_RescanFindsTheFirstMarker :
    (State.reset.cfg.sync1Mismatch = .rescan ∧ State.reset.cfg.sync0 ≠ State.reset.cfg.sync1 ∧
        State.reset.rx.state = .seekSync0) ∧
      ¬ [State.reset.cfg.sync0, State.reset.cfg.sync1] <:+: [0x13, 0xAA] ∧
      ¬ [State.reset.cfg.sync0, State.reset.cfg.sync1] <:+: [0x13, 0xAA] ++ [State.reset.cfg.sync0] := by decide

theorem witness_NoiseBeforeAFrameIsSkipped :
    ¬ [State.reset.cfg.sync0, State.reset.cfg.sync1] <:+: [0x55, 0xAA] ∧
      ([0x01] : List Byte).length ≤ State.reset.cfg.payloadCap ∧ ([0x01] : List Byte).length ≤ 65535 := by decide

theorem witness_FlippedBitEndsInCrcErr :
    Cfg.default.crcPoly.getLsbD 0 = true ∧ State.reset.rx.state = .seekSync0 ∧
      ([0x01] : List Byte).length ≤ State.reset.cfg.payloadCap ∧
      (6 ≤ 8 ∧ 8 < (buildFrame State.reset.cfg 0x04 [0x01]).length) ∧ 7 < 8 := by decide +kernel

/-- The conforming block under `DISCARD`. -/
theorem witness_DecoderRefinesTheSourcesParser :
    (resetUnder .discard).cfg.sync1Mismatch = .discard ∧ (resetUnder .discard).cfg.payloadCap = 65535 ∧
      (resetUnder .discard).rx.state = .seekSync0 := by decide

theorem witness_FirstSixBytesWriteNoCell :
    State.reset.rx.state = .seekSync0 ∧ ([0xAA, 0x55, 1, 1, 0, 1] : List Byte).length ≤ 6 ∧
      ∃ t, performAll (rxBytes [0xAA, 0x55, 1, 1, 0, 1]) State.reset = .next t := ⟨rfl, by decide, _, rfl⟩

theorem witness_FrameEndsWithin65541Bytes :
    (rxAt .header 0 0).cfg.legal = true ∧ (rxAt .header 0 0).rx.state = .header ∧ (rxAt .header 0 0).rx.idx = 0#16 ∧
      (List.replicate 65541 (0xFF : Byte)).length = 65541 :=
  ⟨by decide, rfl, rfl, List.length_replicate⟩

theorem witness_UsageErrIsSticky :
    (∃ t, applyWord 0x40000010#32 State.reset = .next t ∧
        OutEvent.usageErr 0x40000010#32 .txIdle ∈ newEvents State.reset t) ∧
      (∃ t, applyWord 0x00000000#32 (raiseUsage 0 .txIdle State.reset) = .next t ∧
        (raiseUsage 0 .txIdle State.reset).usage.err = true) ∧
      ∃ t, applyWord 0x60000000#32 State.reset = .next t ∧ decode 0x60000000#32 = .event .rxTimeout :=
  ⟨⟨_, rfl, List.mem_singleton.2 rfl⟩, ⟨_, rfl, rfl⟩, ⟨_, rfl, by decide⟩⟩

theorem witness_EventsChangeOnlyTheirUnit :
    (∃ t, exec (.crcByte 0x31) State.reset = .next t) ∧ ∃ t, exec (.rxByte 0x01) (rxAt .payload 0 1) = .next t :=
  ⟨⟨_, rfl⟩, ⟨_, rfl⟩⟩

theorem witness_EventsOfDifferentUnitsCommute :
    (Instr.txStart 0x01 0).unit ≠ Instr.rxTimeout.unit ∧ (Instr.txStart 0x01 0).unit ≠ .control ∧
      Instr.rxTimeout.unit ≠ .control ∧
      ∃ s1 s12, exec (.txStart 0x01 0) State.reset = .next s1 ∧ exec .rxTimeout s1 = .next s12 :=
  ⟨by decide, by decide, by decide, _, _, rfl, rfl⟩

/-- R62 holds in the reset state, and in a state inside a payload and inside a trailer. -/
theorem reset_meets : MeetsR62 State.reset := (breach_eq_none _).1 (by decide +kernel)

/-- After the marker, the header `01 04 00 02` and one payload byte. -/
def midPayload : State := afterBytes [0xAA, 0x55, 0x01, 0x04, 0x00, 0x02, 0x01] State.reset

theorem witness_EveryEventCompletes :
    MeetsR62 State.reset ∧ MeetsR62 midPayload ∧ midPayload.rx.state = .payload :=
  ⟨reset_meets, (breach_eq_none _).1 (by decide +kernel), by decide +kernel⟩

theorem witness_BufferReadsWhatWasWritten :
    65534 < Cfg.default.payloadCap ∧ Cfg.default.payloadCap ≤ 65535 := by decide

theorem witness_StepAppliesTheDecodedEvent :
    (State.reset.withFetchWord 32 0x200000FF).cfg.legal = true ∧
      MeetsR62 (State.reset.withFetchWord 32 0x200000FF) ∧
      (State.reset.withFetchWord 32 0x200000FF).input = [.word 0x200000FF] ∧
      decode 0x200000FF#32 = .event (.crcByte 0xFF) ∧ decode 0x80000000#32 = .malformed .reservedOp ∧
      State.reset.input = [] :=
  ⟨by decide, (breach_eq_none _).1 (by decide +kernel), by decide, by decide, by decide, rfl⟩

theorem witness_StepKeepsR62 :
    MeetsR62 (State.reset.withFetchWord 32 0x500000AA) ∧
      ∃ t, step (State.reset.withFetchWord 32 0x500000AA) = .next t :=
  ⟨(breach_eq_none _).1 (by decide +kernel), _, rfl⟩

theorem witness_ResetIsSafe : Cfg.default.legal = true := by decide

theorem witness_StepKeepsTheBufferCanonical :
    Memory.wf State.reset.cfg.payloadCap [(0, 0x01#8), (65534, 0xFF#8)] = true ∧
      Memory.wf (State.reset.withFetchWord 32 0x500000AA).cfg.payloadCap
        (State.reset.withFetchWord 32 0x500000AA).rx.buf = true ∧
      ∃ t, step (State.reset.withFetchWord 32 0x500000AA) = .next t := ⟨by decide, by decide, _, rfl⟩

theorem witness_BrokenStateFaults :
    (rxAt .reserved5 0 0).cfg.legal = true ∧ ¬ MeetsR62 (rxAt .reserved5 0 0) ∧
      ∀ p rest, (rxAt .reserved5 0 0).input = .cycle p :: rest → p.rst = false :=
  ⟨by decide, fun h => absurd h.named (by decide), fun _ _ h => by cases h⟩

theorem witness_ConfigurationNeverChanges :
    ∃ t, step (State.reset.withFetchWord 32 0x10000000) = .next t := ⟨_, rfl⟩

/-- A reset cycle is legal in a state no run reaches. -/
theorem witness_ResetCycleGivesTheResetValues :
    ((rxAt .reserved7 9 0).withCycle { quiet with rst := true }).cfg.legal = true ∧
      ((rxAt .reserved7 9 0).withCycle { quiet with rst := true }).input = .cycle { quiet with rst := true } :: [] :=
  ⟨by decide, rfl⟩

theorem witness_ResetCycleEmitsNothing :
    ((openFrame 3).withCycle { quiet with rst := true }).cfg.legal = true ∧
      ((openFrame 3).withCycle { quiet with rst := true }).input = .cycle { quiet with rst := true } :: [] :=
  ⟨by decide, rfl⟩

/-- A start request and a CRC init in one cycle, with a frame open. -/
def busyStart : PortIn := { quiet with txStartValid := true, txType := 0x05, crcInit := true, errClr := true }

/-- A payload byte request in one cycle. -/
def loneByte : PortIn := { quiet with txPlValid := true, txPlData := 0x10, crcEn := true }

theorem witness_SameCyclePriorities :
    (∃ t, step ((openFrame 1).withCycle busyStart) = .next t) ∧ busyStart.rst = false ∧ busyStart.crcInit = true ∧
      busyStart.txStartValid = true ∧ txStartReady busyStart (openFrame 1) = true ∧
      (openFrame 1).tx.state = .payload ∧
      (∃ t, step (State.reset.withCycle loneByte) = .next t) ∧ loneByte.rst = false ∧ loneByte.crcInit = false ∧
      loneByte.txPlValid = true ∧ txPlReady loneByte State.reset = true ∧ State.reset.tx.state = .idle ∧
      { quiet with rst := true }.rst = true :=
  ⟨⟨_, rfl⟩, rfl, rfl, rfl, rfl, rfl, ⟨_, rfl⟩, rfl, rfl, rfl, rfl, rfl, rfl⟩

/-- The RX clauses and the clause on the flags: a byte with a timeout, a lone timeout, and a cycle without a usage error. -/
theorem witness_SameCyclePriorities_rx :
    ({ quiet with rxiValid := true, rxiData := 0xAA, rxiTimeout := true }.rxiValid = true ∧
      ∃ t, step (State.reset.withCycle { quiet with rxiValid := true, rxiData := 0xAA, rxiTimeout := true }) = .next t) ∧
    ({ quiet with rxiTimeout := true }.rxiValid = false ∧
      ∃ t, step (State.reset.withCycle { quiet with rxiTimeout := true }) = .next t) ∧
    (quiet.rst = false ∧ quiet.rxiValid = false ∧ quiet.rxiTimeout = false ∧
      ∃ t, step (State.reset.withCycle quiet) = .next t ∧ (newEvents State.reset t).any OutEvent.isUsageErr = false) :=
  ⟨⟨rfl, _, rfl⟩, ⟨rfl, _, rfl⟩, rfl, rfl, rfl, _, rfl, rfl⟩

theorem witness_TxHandshakeNeedsReady :
    quiet.rst = false ∧ (∃ t, step (State.reset.withCycle quiet) = .next t) ∧
      (quiet.txStartValid && txStartReady quiet State.reset) = false ∧
      (quiet.txPlValid && txPlReady quiet State.reset) = false := ⟨rfl, ⟨_, rfl⟩, rfl, rfl⟩

/-- A start request, with a payload byte request beside it. -/
def startAndByte : PortIn := { quiet with txStartValid := true, txType := 0x04, txLen := 1, txPlValid := true }

/-- Both handshakes in a state in which their event is legal, and the start also in one in which it is not. -/
theorem witness_TxHandshakeNeedsReady_performed :
    (startAndByte.txStartValid = true ∧ txStartReady startAndByte State.reset = true ∧
      (∃ t, step (State.reset.withCycle startAndByte) = .next t) ∧
      txStartReady startAndByte (openFrame 1) = true ∧ ∃ t, step ((openFrame 1).withCycle startAndByte) = .next t) ∧
    (loneByte.txPlValid = true ∧ txPlReady loneByte (openFrame 1) = true ∧
      ∃ t, step ((openFrame 1).withCycle loneByte) = .next t) :=
  ⟨⟨rfl, rfl, ⟨_, rfl⟩, rfl, _, rfl⟩, rfl, rfl, _, rfl⟩

theorem witness_StepKeepsTheQueueCarryingTxOut :
    QueueCarriesTxOut (State.reset.withCycle { quiet with txStartValid := true, txoReady := true }) ∧
      ∃ t, step (State.reset.withCycle { quiet with txStartValid := true, txoReady := true }) = .next t :=
  ⟨⟨fun x hx => ⟨_, List.mem_singleton.1 hx⟩, by decide, List.nil_suffix⟩, _, rfl⟩

theorem witness_RxDonePulsesOncePerOutcome :
    { quiet with rxiTimeout := true }.rst = false ∧
      ∃ t, step (State.reset.withCycle { quiet with rxiTimeout := true }) = .next t := ⟨rfl, _, rfl⟩

theorem witness_ReadPortShowsTheBufferBeforeTheEdge :
    quiet.rst = false ∧ ∃ t, step (State.reset.withCycle { quiet with rxbAddr := 0xFFFF }) = .next t := ⟨rfl, _, rfl⟩

theorem witness_PortsNeverReportMalformed :
    ∃ t, step (State.reset.withCycle loneByte) = .next t ∧
      OutEvent.usageErr 0x40000010#32 .txIdle ∈ newEvents State.reset t := ⟨_, rfl, List.mem_singleton.2 rfl⟩

theorem witness_EveryCycleCompletes :
    State.reset.cfg.legal = true ∧ MeetsR62 State.reset ∧ quiet.rst = false ∧ { quiet with rst := true }.rst = true :=
  ⟨by decide, reset_meets, rfl, rfl⟩

/-- Two bytes wait in the TX queue. -/
def queued : State := { State.reset with port := { State.reset.port with txq := [0xAA, 0x55] } }

theorem witness_TxQueueDrainsOldestFirst :
    queued.port.txq = 0xAA :: [0x55] ∧ quiet.rst = false ∧ quiet.txoReady = false ∧
      (∃ t, step (queued.withCycle quiet) = .next t) ∧
      (∃ t, step (queued.withCycle { quiet with txoReady := true }) = .next t) ∧
      State.reset.port.txq = [] ∧ (∃ t, step (State.reset.withCycle { quiet with txoReady := true }) = .next t) ∧
      (quiet.txStartValid && txStartReady quiet queued) = false ∧ (quiet.txPlValid && txPlReady quiet queued) = false :=
  ⟨rfl, rfl, rfl, ⟨_, rfl⟩, ⟨_, rfl⟩, rfl, ⟨_, rfl⟩, rfl, rfl⟩

end Sys2Proof.Tests
end

section
/-! SUPPORT. What one step answers on each kind of transaction, and when it is refused: only by the check of the
configuration (R7, I15), for no meaning of an event refuses. -/

namespace Sys2Proof.Machine

/-! ## One event word -/

theorem applyWord_event {w : EventWord} {i : Instr} (h : decode w = .event i) (s : State) :
    applyWord w s = exec i s := by
  rw [applyWord, h]

theorem applyWord_malformed {w : EventWord} {why : Malformed} (h : decode w = .malformed why) (s : State) :
    applyWord w s = .next (raiseUsage w .malformed s) := by
  rw [applyWord, h]; rfl

/-! ## One step, by its transaction -/

theorem step_of_legal {s : State} (hl : s.cfg.legal = true) : step s = takeInput s := if_pos hl

theorem step_of_not_legal {s : State} (hl : ¬ s.cfg.legal = true) : step s = .refused .illegalConfig := if_neg hl

theorem step_of_input_nil {s : State} (hl : s.cfg.legal = true) (hm : MeetsR62 s) (hi : s.input = []) :
    step s = .next s := by
  rw [step_of_legal hl, takeInput, hi]
  exact unlessBroken_of_meets hm _

theorem step_of_input_word {s : State} {w : EventWord} {rest : List Input} (hl : s.cfg.legal = true)
    (hm : MeetsR62 s) (hi : s.input = .word w :: rest) : step s = applyWord w (s.setInput rest) := by
  rw [step_of_legal hl, takeInput, hi]
  exact unlessBroken_of_meets hm _

/-! ## Nothing but the configuration is refused -/

theorem execTxStart_ne_refused (t : Byte) (n : Half) (s : State) (r : Refusal) : execTxStart t n s ≠ .refused r := by
  unfold execTxStart
  cases s.tx.state <;> simp

theorem execTxByte_ne_refused (b : Byte) (s : State) (r : Refusal) : execTxByte b s ≠ .refused r := by
  unfold execTxByte
  cases s.tx.state
  case idle => simp
  case payload => by_cases hr : s.tx.rem = 0#16 <;> simp [hr]

theorem execRxByte_ne_refused (b : Byte) (s : State) (r : Refusal) : execRxByte b s ≠ .refused r := by
  unfold execRxByte
  rcases rxStep s.cfg b s.rx with f | ⟨u, _ | o⟩ <;> simp

theorem execRxTimeout_ne_refused (s : State) (r : Refusal) : execRxTimeout s ≠ .refused r := by
  unfold execRxTimeout
  cases s.rx.state.isNamed <;> simp

/-- Every event has its meaning: it is performed or it faults. -/
theorem exec_ne_refused (i : Instr) (s : State) (r : Refusal) : exec i s ≠ .refused r := by
  cases i with
  | nop => simp
  | crcInit => simp
  | crcByte b => simp
  | txStart t n => exact execTxStart_ne_refused t n s r
  | txByte b => exact execTxByte_ne_refused b s r
  | rxByte b => exact execRxByte_ne_refused b s r
  | rxTimeout => exact execRxTimeout_ne_refused s r
  | errClr => simp

theorem applyWord_ne_refused (w : EventWord) (s : State) (r : Refusal) : applyWord w s ≠ .refused r := by
  cases hd : decode w with
  | event i => rw [applyWord_event hd]; exact exec_ne_refused i s r
  | malformed why => simp [applyWord_malformed hd]

theorem andThen_ne_refused {o : Host.Outcome State Fault Refusal} {k : State → Host.Outcome State Fault Refusal}
    {r : Refusal} (ho : o ≠ .refused r) (hk : ∀ s, k s ≠ .refused r) : andThen o k ≠ .refused r := by
  cases o with
  | next s => exact hk s
  | fault f => simp
  | refused q => exact ho

theorem performAll_ne_refused (es : List Instr) (s : State) (r : Refusal) : performAll es s ≠ .refused r := by
  induction es generalizing s with
  | nil => simp
  | cons i es ih => exact andThen_ne_refused (exec_ne_refused i s r) ih

theorem eventEdge_ne_refused (p : PortIn) (s : State) (r : Refusal) : eventEdge p s ≠ .refused r :=
  andThen_ne_refused (performAll_ne_refused _ s r) (by simp)

theorem unlessBroken_ne_refused {s : State} {x : Host.Outcome State Fault Refusal} {r : Refusal}
    (hx : x ≠ .refused r) : unlessBroken s x ≠ .refused r := by
  unfold unlessBroken
  cases breach s with
  | none => exact hx
  | some f => simp

/-- Under a configuration the model accepts, no transaction is refused. -/
theorem takeInput_ne_refused (s : State) (r : Refusal) : takeInput s ≠ .refused r := by
  unfold takeInput
  split
  case h_1 => exact unlessBroken_ne_refused (by simp [execNop])
  case h_2 w rest _ => exact unlessBroken_ne_refused (applyWord_ne_refused w _ r)
  case h_3 p rest _ =>
    by_cases hr : p.rst = true
    · simp [hr]
    · simpa [hr] using unlessBroken_ne_refused (eventEdge_ne_refused p (s.setInput rest) r)

theorem step_eq_refused {s : State} {r : Refusal} :
    step s = .refused r ↔ ¬ s.cfg.legal = true ∧ r = .illegalConfig := by
  by_cases hl : s.cfg.legal = true
  · simp [step_of_legal hl, takeInput_ne_refused, hl]
  · simp [step_of_not_legal hl, hl, eq_comm]

/-- A configuration the model does not accept breaks one of the constraints of R7. -/
theorem not_legal_iff (c : Cfg) : ¬ c.legal = true ↔
    c.sync0 = c.sync1 ∨ c.payloadCap = 0 ∨ 65535 < c.payloadCap ∨ c.txqDepth < 8 := by
  by_cases hs : c.sync0 = c.sync1
  · simp [Cfg.legal, hs]
  · simp only [Cfg.legal, ne_eq, hs, Bool.and_eq_true, decide_eq_true_eq, not_false_eq_true, true_and, false_or]
    omega

end Sys2Proof.Machine
end

section
/-! SUPPORT. The two bytes of a 16-bit value as numbers (R70, R73). -/

namespace Sys2Proof.Machine

theorem hi8_toNat (v : Half) : (hi8 v).toNat = v.toNat / 256 := by
  rw [hi8, BitVec.extractLsb'_toNat, Nat.shiftRight_eq_div_pow]
  omega

theorem lo8_toNat (v : Half) : (lo8 v).toNat = v.toNat % 256 := by
  rw [lo8, BitVec.extractLsb'_toNat, Nat.shiftRight_zero]

theorem be16_toNat (h l : Byte) : (be16 h l).toNat = h.toNat * 256 + l.toNat := by
  rw [be16, BitVec.toNat_append, ← Nat.shiftLeft_add_eq_or_of_lt l.isLt, Nat.shiftLeft_eq]

@[simp] theorem be16_hi8_lo8 (v : Half) : be16 (hi8 v) (lo8 v) = v := by
  apply BitVec.eq_of_toNat_eq
  rw [be16_toNat, hi8_toNat, lo8_toNat]
  omega

end Sys2Proof.Machine
end

section
/-! The statements of 00_scope.md. -/

namespace Sys2Proof.Machine

/-- Settles O49: the check of the configuration is the only place a step is refused. -/
theorem onlyIllegalConfigurationsAreRefused : Obligations.OnlyIllegalConfigurationsAreRefused := by
  unfold Obligations.OnlyIllegalConfigurationsAreRefused
  intro s
  simp only [← not_legal_iff, step_eq_refused, exists_and_left, exists_eq, and_true]

/-- Settles O42, from the two bytes and the joined value as numbers. -/
theorem wireOrderIsBigEndian : Obligations.WireOrderIsBigEndian := by
  unfold Obligations.WireOrderIsBigEndian
  exact ⟨fun v => ⟨be16_hi8_lo8 v, hi8_toNat v, lo8_toNat v⟩, be16_toNat⟩

/-- Settles O44: a state that meets R62 passes the guard of the step, and decoding picks the event or R202. -/
theorem stepAppliesTheDecodedEvent : Obligations.StepAppliesTheDecodedEvent := by
  unfold Obligations.StepAppliesTheDecodedEvent
  intro s w rest hl hm
  refine ⟨fun hi => ?_, step_of_input_nil hl hm⟩
  rw [step_of_input_word hl hm hi]
  exact ⟨fun i hd => applyWord_event hd _, fun why hd => applyWord_malformed hd _⟩

end Sys2Proof.Machine
end

section
/-! SUPPORT. What an event writes and what it leaves (10_state.md R60): its unit's registers, and the usage flags of a
usage error. -/

namespace Sys2Proof.Machine

/-! ## The write columns of R60 -/

/-- An event writes its own unit's registers: a CRC event `crc_gen`, a TX event the TX unit, the usage flags and the trace,
an RX event the RX unit, the result registers and the trace, a control event the usage flags. -/
theorem exec_writes {i : Instr} {s t : State} (h : exec i s = .next t) :
    (i.unit = .crc ∧ ∃ c, t = s.setCrcGen c) ∨
    (i.unit = .tx ∧ ∃ u f l, t = { s with tx := u, usage := f, trace := l }) ∨
    (i.unit = .rx ∧ ∃ u r l, t = { s with rx := u, res := r, trace := l }) ∨
    (i.unit = .control ∧ ∃ f, t = s.setUsage f) := by
  cases hu : i.unit with
  | crc =>
    cases i <;> simp only [Instr.unit, reduceCtorEq] at hu <;> cases h <;> exact .inl ⟨rfl, _, rfl⟩
  | tx =>
    obtain ⟨_, -, rfl, -⟩ := exec_tx_local hu rfl rfl h
    exact .inr (.inl ⟨rfl, _, _, _, rfl⟩)
  | rx =>
    obtain ⟨_, -, rfl, -⟩ := exec_rx_local hu rfl rfl rfl h
    exact .inr (.inr (.inl ⟨rfl, _, _, _, rfl⟩))
  | control =>
    cases i <;> simp only [Instr.unit, reduceCtorEq] at hu <;> cases h <;>
      exact .inr (.inr (.inr ⟨rfl, _, rfl⟩))

theorem exec_crcGen_unchanged {i : Instr} {s t : State} (hi : i.unit ≠ .crc) (h : exec i s = .next t) :
    t.crcGen = s.crcGen := by
  rcases exec_writes h with ⟨hu, -⟩ | ⟨-, _, _, _, rfl⟩ | ⟨-, _, _, _, rfl⟩ | ⟨-, _, rfl⟩
  · exact absurd hu hi
  all_goals rfl

theorem exec_tx_unchanged {i : Instr} {s t : State} (hi : i.unit ≠ .tx) (h : exec i s = .next t) : t.tx = s.tx := by
  rcases exec_writes h with ⟨-, _, rfl⟩ | ⟨hu, -⟩ | ⟨-, _, _, _, rfl⟩ | ⟨-, _, rfl⟩
  case inr.inl => exact absurd hu hi
  all_goals rfl

theorem exec_rx_res_unchanged {i : Instr} {s t : State} (hi : i.unit ≠ .rx) (h : exec i s = .next t) :
    t.rx = s.rx ∧ t.res = s.res := by
  rcases exec_writes h with ⟨-, _, rfl⟩ | ⟨-, _, _, _, rfl⟩ | ⟨hu, -⟩ | ⟨-, _, rfl⟩
  case inr.inr.inl => exact absurd hu hi
  all_goals exact ⟨rfl, rfl⟩

/-- No event touches the configuration, the cycle-level registers, the input or the draw counter. -/
theorem exec_outside_unchanged {i : Instr} {s t : State} (h : exec i s = .next t) :
    t.cfg = s.cfg ∧ t.port = s.port ∧ t.input = s.input ∧ t.draws = s.draws := by
  rcases exec_writes h with ⟨-, _, rfl⟩ | ⟨-, _, _, _, rfl⟩ | ⟨-, _, _, _, rfl⟩ | ⟨-, _, rfl⟩ <;>
    exact ⟨rfl, rfl, rfl, rfl⟩

theorem exec_cfg_unchanged {i : Instr} {s t : State} (h : exec i s = .next t) : t.cfg = s.cfg :=
  (exec_outside_unchanged h).1

/-! ## The usage flags -/

theorem txBytes_isUsageErr {bs : List Byte} {e : OutEvent} (h : e ∈ bs.map OutEvent.txByte) :
    e.isUsageErr = false := by
  obtain ⟨b, -, rfl⟩ := List.mem_map.1 h
  rfl

theorem isUsageErr_of_isRxOutcome {e : OutEvent} (h : e.isRxOutcome = true) : e.isUsageErr = false := by
  cases e <;> simp_all [OutEvent.isRxOutcome, OutEvent.isUsageErr]

/-- A TX event is a usage error with its own word, or leaves the flags and reports no usage error. -/
theorem exec_tx_usage_cases {i : Instr} (hi : i.unit = .tx) {s t : State} (h : exec i s = .next t) :
    (∃ c, t = raiseUsage (encode i) c s) ∨ (t.usage = s.usage ∧ ∀ e ∈ newEvents s t, e.isUsageErr = false) := by
  cases i <;> simp only [Instr.unit, reduceCtorEq] at hi
  case txStart y n =>
    rcases exec_txStart_cases h with ⟨-, rfl⟩ | ⟨-, rfl⟩
    · exact .inl ⟨_, rfl⟩
    · rw [newEvents_of_trace (by rw [txOpen_eq])]
      exact .inr ⟨by rw [txOpen_eq], fun _ => txBytes_isUsageErr⟩
  case txByte b =>
    rcases exec_txByte_cases h with ⟨-, rfl⟩ | ⟨-, -, rfl⟩
    · exact .inl ⟨_, rfl⟩
    · rw [newEvents_of_trace (by rw [txPass_eq])]
      exact .inr ⟨by rw [txPass_eq], fun _ => txBytes_isUsageErr⟩

/-- An RX event leaves the usage flags and reports no usage error. -/
theorem exec_rx_usage {i : Instr} (hi : i.unit = .rx) {s t : State} (h : exec i s = .next t) :
    t.usage = s.usage ∧ ∀ e ∈ newEvents s t, e.isUsageErr = false := by
  obtain ⟨u, hu, ht, hev, -⟩ := exec_rx_local hi rfl rfl rfl h
  cases h.symm.trans hu
  exact ⟨by rw [ht], fun e he => isUsageErr_of_isRxOutcome (hev e he)⟩

/-- An event clears the usage flags as `ERR_CLR`, is a usage error with its own word, or leaves the flags and reports no
usage error. -/
theorem exec_usage_cases {i : Instr} {s t : State} (h : exec i s = .next t) :
    (i = .errClr ∧ t = clearUsage s) ∨
    (i ≠ .errClr ∧ ∃ c, t = raiseUsage (encode i) c s) ∨
    (i ≠ .errClr ∧ t.usage = s.usage ∧ ∀ e ∈ newEvents s t, e.isUsageErr = false) := by
  by_cases he : i = .errClr
  case pos => subst he; cases h; exact .inl ⟨rfl, rfl⟩
  case neg =>
    refine .inr ?_
    simp only [ne_eq, he, not_false_eq_true, true_and]
    cases hu : i.unit with
    | tx => exact exec_tx_usage_cases hu h
    | rx => exact .inr (exec_rx_usage hu h)
    | crc =>
      cases i <;> simp only [Instr.unit, reduceCtorEq] at hu <;> cases h <;> exact .inr (by simp [newEvents])
    | control =>
      cases i <;> simp only [Instr.unit, reduceCtorEq, not_true_eq_false] at hu he
      cases h
      exact .inr (by simp [newEvents])

end Sys2Proof.Machine
end

section
/-! SUPPORT. How an RX event can end a decode attempt: what its outcome says of the registers it reads (42_decoder.md
R163, R166, R173 to R176), and what becomes of the payload buffer. -/

namespace Sys2Proof.Machine

/-- What holds when a decode attempt ends with an outcome: `st` is the state it ends in, `u` the RX unit as it ends it. -/
def RxOutcome.FitsEnd (cfg : Cfg) (st : RxState) (u : RxUnit) : RxOutcome → Prop
  | .frameOk x => x = u.crc
  | .crcErr x => x ≠ u.crc
  | .lenErr => cfg.payloadCap < u.len.toNat
  | .syncErr _ => cfg.sync1Mismatch = .report
  | .timeout st' => st' = st

theorem rxVerify_fitsEnd (cfg : Cfg) (st : RxState) (b : Byte) (u : RxUnit) : (rxVerify b u).FitsEnd cfg st u := by
  unfold rxVerify
  by_cases hx : be16 u.trlHi b = u.crc <;> simp [hx, RxOutcome.FitsEnd]

/-- A wrong second sync byte moves at most `rx_state`, and is an outcome only under `REPORT`. -/
theorem rxSync1Mismatch_cases {cfg : Cfg} {b : Byte} {u v : RxUnit} {o : Option RxOutcome}
    (h : (v, o) = rxSync1Mismatch cfg b u) :
    (o = none ∧ (v = u ∨ v = { u with state := .seekSync0 })) ∨
      (o = some (.syncErr b) ∧ v = u ∧ cfg.sync1Mismatch = .report) := by
  unfold rxSync1Mismatch at h
  cases hm : cfg.sync1Mismatch with
  | rescan => by_cases hb : b = cfg.sync0 <;> simp_all
  | discard => simp_all
  | report => simp_all

/-- A complete header sets `rx_len` and `rx_idx`, and is an outcome exactly above the capacity. -/
theorem rxHeaderComplete_cases {cfg : Cfg} {u v : RxUnit} {o : Option RxOutcome}
    (h : (v, o) = rxHeaderComplete cfg u) :
    (o = some .lenErr ∧ cfg.payloadCap < v.len.toNat ∧
      v = { u with len := be16 u.hdr.lenHi u.hdr.lenLo, idx := 0#16 }) ∨
    (o = none ∧ v.len = 0#16 ∧
      v = { u with len := be16 u.hdr.lenHi u.hdr.lenLo, idx := 0#16, state := .trailer }) ∨
    (o = none ∧ v.len ≠ 0#16 ∧ v.len.toNat ≤ cfg.payloadCap ∧
      v = { u with len := be16 u.hdr.lenHi u.hdr.lenLo, idx := 0#16, state := .payload }) := by
  unfold rxHeaderComplete at h
  dsimp only at h
  split at h
  case isTrue hcap => cases h; exact .inl ⟨rfl, hcap, rfl⟩
  case isFalse hcap =>
    split at h
    case isTrue h0 => cases h; exact .inr (.inl ⟨rfl, h0, rfl⟩)
    case isFalse h0 => cases h; exact .inr (.inr ⟨rfl, h0, by simpa using hcap, rfl⟩)

/-- An accepted byte writes the buffer only in `PAYLOAD`, at `rx_idx`, below the capacity, and then ends no attempt. -/
theorem rxStep_buf {cfg : Cfg} {b : Byte} {u v : RxUnit} {o : Option RxOutcome} (h : rxStep cfg b u = .ok (v, o)) :
    v.bufSeed = u.bufSeed ∧
      (v.buf = u.buf ∨ (u.state = .payload ∧ o = none ∧ u.idx.toNat < cfg.payloadCap ∧
        v.buf = bufPut u.buf u.idx.toNat b)) := by
  rcases rxStep_ok h with ⟨-, -, rfl⟩ | ⟨-, -, -, rfl⟩ | ⟨-, -, hv⟩ | ⟨-, hv⟩ | ⟨hst, hv⟩ | ⟨-, hv⟩
  · by_cases hb : b = cfg.sync0 <;> simp [hb]
  · exact ⟨rfl, .inl rfl⟩
  · rcases rxSync1Mismatch_cases hv with ⟨-, rfl | rfl⟩ | ⟨-, rfl, -⟩ <;> exact ⟨rfl, .inl rfl⟩
  · obtain ⟨-, ⟨-, -, rfl⟩ | ⟨-, hc⟩⟩ := rxHeader_ok hv
    · exact ⟨rfl, .inl rfl⟩
    · rcases rxHeaderComplete_cases hc with ⟨-, -, rfl⟩ | ⟨-, -, rfl⟩ | ⟨-, -, -, rfl⟩ <;> exact ⟨rfl, .inl rfl⟩
  · obtain ⟨-, hcap, rfl, rfl⟩ := rxPayload_ok hv
    exact ⟨rfl, .inr ⟨hst, rfl, hcap, rfl⟩⟩
  · rcases rxTrailer_ok hv with ⟨-, -, rfl⟩ | ⟨-, rfl, -⟩ <;> exact ⟨rfl, .inl rfl⟩

/-- A byte that ends the attempt ends it with an outcome that fits. -/
theorem rxStep_fitsEnd {cfg : Cfg} {b : Byte} {u v : RxUnit} {o : RxOutcome} (h : rxStep cfg b u = .ok (v, some o)) :
    o.FitsEnd cfg u.state v := by
  rcases rxStep_ok h with ⟨-, ho, -⟩ | ⟨-, -, ho, -⟩ | ⟨-, -, hv⟩ | ⟨-, hv⟩ | ⟨-, hv⟩ | ⟨-, hv⟩
  · cases ho
  · cases ho
  · rcases rxSync1Mismatch_cases hv with ⟨ho, -⟩ | ⟨ho, -, hr⟩ <;> cases ho
    exact hr
  · obtain ⟨-, ⟨-, ho, -⟩ | ⟨-, hc⟩⟩ := rxHeader_ok hv
    · cases ho
    · rcases rxHeaderComplete_cases hc with ⟨ho, hcap, -⟩ | ⟨ho, -⟩ | ⟨ho, -⟩ <;> cases ho
      exact hcap
  · obtain ⟨-, -, ho, -⟩ := rxPayload_ok hv
    cases ho
  · rcases rxTrailer_ok hv with ⟨-, ho, -⟩ | ⟨-, rfl, ho⟩ <;> cases ho
    exact rxVerify_fitsEnd ..

/-- An event ends no attempt: the result registers stay and no outcome is reported; or it ends one with an outcome that
fits, the buffer's cells staying as they are. -/
theorem exec_outcome_cases {i : Instr} {s t : State} (h : exec i s = .next t) :
    (t.res = s.res ∧ ∀ e ∈ newEvents s t, e.isRxOutcome = false) ∨
    ∃ u o, t = takeOutcome o (s.setRx u) ∧ newEvents s t = [outcomeEvent s.cfg o u] ∧
      o.FitsEnd s.cfg s.rx.state u ∧ u.buf = s.rx.buf ∧ u.bufSeed = s.rx.bufSeed := by
  cases hu : i.unit with
  | crc => cases i <;> simp only [Instr.unit, reduceCtorEq] at hu <;> cases h <;> exact .inl (by simp [newEvents])
  | control =>
    cases i <;> simp only [Instr.unit, reduceCtorEq] at hu <;> cases h <;>
      exact .inl (by simp [newEvents, clearUsage])
  | tx =>
    obtain ⟨u, hu, ht, hev⟩ := exec_tx_local hu rfl rfl h
    cases h.symm.trans hu
    exact .inl ⟨by rw [ht], hev⟩
  | rx =>
    cases i <;> simp only [Instr.unit, reduceCtorEq] at hu
    case rxByte b =>
      obtain ⟨u, o, hstep, rfl⟩ := exec_rxByte_eq_next.1 h
      cases o with
      | none => exact .inl (by simp [afterRx, newEvents])
      | some o =>
        obtain ⟨hseed, hbuf | ⟨-, ho, -⟩⟩ := rxStep_buf hstep
        · exact .inr ⟨u, o, rfl, newEvents_of_trace rfl, rxStep_fitsEnd hstep, hbuf, hseed⟩
        · cases ho
    case rxTimeout =>
      obtain ⟨-, rfl⟩ := exec_rxTimeout_eq_next.1 h
      exact .inr ⟨s.rx, .timeout s.rx.state, rfl, newEvents_of_trace rfl, rfl, rfl, rfl⟩

/-- A `LEN_ERR` or `SYNC_ERR` that fits is one the configuration allows (R166, R46). -/
theorem RxOutcome.FitsEnd.allowed {cfg : Cfg} {st : RxState} {u : RxUnit} {o : RxOutcome} (h : o.FitsEnd cfg st u) :
    (o = .lenErr → cfg.payloadCap < 65535) ∧ (∀ b, o = .syncErr b → cfg.sync1Mismatch = .report) := by
  refine ⟨?_, ?_⟩
  · rintro rfl
    have hcap : cfg.payloadCap < u.len.toNat := h
    have hlt : u.len.toNat < 2 ^ 16 := u.len.isLt
    omega
  · rintro b rfl
    exact h

end Sys2Proof.Machine
end

section
/-! SUPPORT. R62 unit by unit, and what keeps each unit's part (10_state.md R62). -/

namespace Sys2Proof.Machine

/-! ## The buffer's cells and the CRC over them -/

/-- What the CRC covers sees only the header and the buffer. -/
theorem rxCovered_congr {cfg : Cfg} {u v : RxUnit} (n : Nat) (hh : v.hdr = u.hdr) (hb : v.buf = u.buf)
    (hs : v.bufSeed = u.bufSeed) : rxCovered cfg v n = rxCovered cfg u n := by
  have hread : bufRead cfg v = bufRead cfg u := funext fun a => bufRead_congr a hb hs
  simp only [rxCovered, bufPayload, hread, hh]

@[simp] theorem rxCovered_zero (cfg : Cfg) (u : RxUnit) : rxCovered cfg u 0 = u.hdr.bytes := by
  simp [rxCovered, bufPayload]

/-- What a read returns after a cell below the capacity is written (R75, R76). -/
theorem bufRead_of_bufPut {cfg : Cfg} {u v : RxUnit} {i : Nat} {b : Byte} (hi : i < cfg.payloadCap)
    (hb : v.buf = bufPut u.buf i b) (hs : v.bufSeed = u.bufSeed) (a : Nat) :
    bufRead cfg v a = if a = i then b else bufRead cfg u a := by
  by_cases ha : a = i
  · simp [bufRead, hb, ha, hi]
  · simp [bufRead, hb, hs, ha, bufFind_bufPut_other u.buf b ha]

/-- One more payload byte in the buffer is one more byte covered. -/
theorem rxCovered_succ_of_bufPut {cfg : Cfg} {u v : RxUnit} {i : Nat} {b : Byte} (hi : i < cfg.payloadCap)
    (hh : v.hdr = u.hdr) (hb : v.buf = bufPut u.buf i b) (hs : v.bufSeed = u.bufSeed) :
    rxCovered cfg v (i + 1) = rxCovered cfg u i ++ [b] := by
  have hread := bufRead_of_bufPut hi hb hs
  have hbelow : (List.range i).map (bufRead cfg v) = (List.range i).map (bufRead cfg u) :=
    List.map_congr_left fun a ha => by rw [hread, if_neg (List.mem_range.1 ha).ne]
  simp [rxCovered, bufPayload, List.range_succ, hbelow, hread, hh]

/-- The CRC of one byte more is the CRC stepped by it (R122). -/
theorem crc16_concat (cfg : Cfg) (bs : List Byte) (b : Byte) :
    crc16 cfg (bs ++ [b]) = crcStep cfg (crc16 cfg bs) b := by
  simp [crc16, crcFold]

/-- Header bytes come in at increasing indices: the first `i + 1` after byte `i` is stored. -/
theorem take_bytes_put (h : Header) (b : Byte) {i : Nat} (hi : i < 4) :
    (h.put i b).bytes.take (i + 1) = h.bytes.take i ++ [b] := by
  match i, hi with
  | 0, _ => rfl
  | 1, _ => rfl
  | 2, _ => rfl
  | 3, _ => rfl

/-! ## The parts of R62 -/

/-- Items 1 to 5 of R62, by `rx_state`. -/
def RxMeetsR62 (cfg : Cfg) (u : RxUnit) : Prop :=
  match u.state with
  | .seekSync0 => u.idx = 0#16
  | .seekSync1 => u.idx = 0#16
  | .header => u.idx.toNat ≤ 3 ∧ u.crc = crc16 cfg (u.hdr.bytes.take u.idx.toNat)
  | .payload => 1 ≤ u.len.toNat ∧ u.len.toNat ≤ cfg.payloadCap ∧ u.idx.toNat < u.len.toNat ∧
      u.crc = crc16 cfg (rxCovered cfg u u.idx.toNat)
  | .trailer => u.idx.toNat ≤ 1 ∧ u.crc = crc16 cfg (rxCovered cfg u u.len.toNat)
  | .reserved5 => False
  | .reserved6 => False
  | .reserved7 => False

/-- Item 6 of R62: no frame is open exactly when no byte is owed. -/
def TxMeetsR62 (u : TxUnit) : Prop := u.state = .idle ↔ u.rem = 0#16

/-- Item 7 of R62 and I5: the codes `res_status` may hold. -/
def StatusAllowed (cfg : Cfg) (st : ResStatus) : Prop :=
  st ≠ .reserved6 ∧ st ≠ .reserved7 ∧ (st = .lenErr → cfg.payloadCap < 65535) ∧
    (st = .syncErr → cfg.sync1Mismatch = .report)

theorem meetsR62_iff (s : State) :
    MeetsR62 s ↔ RxMeetsR62 s.cfg s.rx ∧ TxMeetsR62 s.tx ∧ StatusAllowed s.cfg s.res.status := by
  constructor
  · rintro ⟨hn, hs, hh, hp, ht, htx, hres⟩
    refine ⟨?_, htx, hres⟩
    unfold RxMeetsR62
    cases hst : s.rx.state <;> simp_all [RxState.isNamed]
  · rintro ⟨hrx, htx, hres⟩
    unfold RxMeetsR62 at hrx
    refine ⟨?_, ?_, ?_, ?_, ?_, htx, hres⟩ <;> cases hst : s.rx.state <;> simp_all [RxState.isNamed]

/-- R62 sees the configuration, the RX unit, the TX unit and the result registers only. -/
theorem MeetsR62.congr {s t : State} (h : MeetsR62 s) (hc : t.cfg = s.cfg) (hrx : t.rx = s.rx) (htx : t.tx = s.tx)
    (hres : t.res = s.res) : MeetsR62 t := by
  rw [meetsR62_iff] at h ⊢
  rwa [hc, hrx, htx, hres]

theorem rxMeetsR62_of_seekSync0 (cfg : Cfg) {u : RxUnit} (hs : u.state = .seekSync0) (hi : u.idx = 0#16) :
    RxMeetsR62 cfg u := by
  simp [RxMeetsR62, hs, hi]

/-- An idle block meets R62: no frame open either way, and no result yet. -/
theorem meetsR62_of_idle {s : State} (hs : s.rx.state = .seekSync0) (hi : s.rx.idx = 0#16) (ht : s.tx.state = .idle)
    (hr : s.tx.rem = 0#16) (hres : s.res.status = .none) : MeetsR62 s := by
  rw [meetsR62_iff]
  exact ⟨rxMeetsR62_of_seekSync0 _ hs hi, by simp [TxMeetsR62, ht, hr], by simp [StatusAllowed, hres]⟩

/-- Every outcome that fits puts an allowed code into `res_status`. -/
theorem RxOutcome.FitsEnd.statusAllowed {cfg : Cfg} {st : RxState} {u : RxUnit} {o : RxOutcome}
    (h : o.FitsEnd cfg st u) : StatusAllowed cfg o.status := by
  obtain ⟨hlen, hsync⟩ := h.allowed
  cases o <;> simp_all [StatusAllowed, RxOutcome.status]

/-! ## A byte that ends no attempt keeps the RX unit's part -/

theorem rxHeader_keeps {cfg : Cfg} {b : Byte} {u v : RxUnit} (hst : u.state = .header) (hu : RxMeetsR62 cfg u)
    (h : rxHeader cfg b u = .ok (v, none)) : RxMeetsR62 cfg v := by
  obtain ⟨-, hcrc⟩ : u.idx.toNat ≤ 3 ∧ u.crc = crc16 cfg (u.hdr.bytes.take u.idx.toNat) := by
    simpa [RxMeetsR62, hst] using hu
  obtain ⟨hi, hcase⟩ := rxHeader_ok h
  have hsucc : (u.idx + 1#16).toNat = u.idx.toNat + 1 := by bv_omega
  have hnew : crcStep cfg u.crc b = crc16 cfg ((u.hdr.put u.idx.toNat b).bytes.take (u.idx.toNat + 1)) := by
    rw [take_bytes_put _ _ hi, crc16_concat, hcrc]
  rcases hcase with ⟨h4, -, rfl⟩ | ⟨h4, hc⟩
  · have h3 : u.idx.toNat + 1 ≤ 3 := by bv_omega
    simp [RxMeetsR62, hst, hsucc, h3, hnew]
  · have hi3 : u.idx.toNat = 3 := by bv_omega
    have hfull : crcStep cfg u.crc b = crc16 cfg (u.hdr.put u.idx.toNat b).bytes := by
      rw [hnew, hi3]; rfl
    rcases rxHeaderComplete_cases hc with ⟨ho, -⟩ | ⟨-, h0, rfl⟩ | ⟨-, h0, hcap, rfl⟩
    · cases ho
    · dsimp only at h0
      simp [RxMeetsR62, h0, hfull]
    · have hpos : 0 < (be16 (u.hdr.put u.idx.toNat b).lenHi (u.hdr.put u.idx.toNat b).lenLo).toNat := by
        dsimp only at h0; bv_omega
      exact ⟨hpos, hcap, hpos, by simpa using hfull⟩

theorem rxPayload_keeps {cfg : Cfg} {b : Byte} {u v : RxUnit} (hst : u.state = .payload) (hu : RxMeetsR62 cfg u)
    (h : rxPayload cfg b u = .ok (v, none)) : RxMeetsR62 cfg v := by
  obtain ⟨hpos, hcap, -, hcrc⟩ : 1 ≤ u.len.toNat ∧ u.len.toNat ≤ cfg.payloadCap ∧ u.idx.toNat < u.len.toNat ∧
      u.crc = crc16 cfg (rxCovered cfg u u.idx.toNat) := by
    simpa [RxMeetsR62, hst] using hu
  obtain ⟨hi, hicap, -, hv⟩ := rxPayload_ok h
  have hsucc : (u.idx + 1#16).toNat = u.idx.toNat + 1 := by bv_omega
  have hnew : v.crc = crc16 cfg (rxCovered cfg v (u.idx.toNat + 1)) := by
    rw [rxCovered_succ_of_bufPut (u := u) (b := b) hicap (by rw [hv]) (by rw [hv]) (by rw [hv]),
      crc16_concat, ← hcrc, hv]
  by_cases hlast : u.idx + 1#16 = u.len
  · have hlen : v.len.toNat = u.idx.toNat + 1 := by rw [hv, ← hsucc, hlast]
    have hstv : v.state = .trailer := by simp [hv, hlast]
    have hidx : v.idx = 0#16 := by simp [hv, hlast]
    rw [← hlen] at hnew
    simpa [RxMeetsR62, hstv, hidx] using hnew
  · have hstv : v.state = .payload := by simp [hv, hlast, hst]
    have hidx : v.idx.toNat = u.idx.toNat + 1 := by simp [hv, hlast, hsucc]
    have hlen : v.len = u.len := by rw [hv]
    have hlt : u.idx.toNat + 1 < u.len.toNat := by bv_omega
    simpa [RxMeetsR62, hstv, hidx, hlen, hcap, hpos, hlt] using hnew

theorem rxTrailer_keeps {cfg : Cfg} {b : Byte} {u v : RxUnit} (hst : u.state = .trailer) (hu : RxMeetsR62 cfg u)
    (h : rxTrailer b u = .ok (v, none)) : RxMeetsR62 cfg v := by
  obtain ⟨-, hcrc⟩ : u.idx.toNat ≤ 1 ∧ u.crc = crc16 cfg (rxCovered cfg u u.len.toNat) := by
    simpa [RxMeetsR62, hst] using hu
  rcases rxTrailer_ok h with ⟨-, -, rfl⟩ | ⟨-, -, ho⟩
  · simp only [RxMeetsR62, hst]
    exact ⟨le_rfl, hcrc.trans (by rw [rxCovered_congr] <;> rfl)⟩
  · cases ho

theorem rxStep_keeps {cfg : Cfg} {b : Byte} {u v : RxUnit} (hu : RxMeetsR62 cfg u)
    (h : rxStep cfg b u = .ok (v, none)) : RxMeetsR62 cfg v := by
  rcases rxStep_ok h with ⟨hst, -, rfl⟩ | ⟨-, -, -, rfl⟩ | ⟨hst, -, hv⟩ | ⟨hst, hv⟩ | ⟨hst, hv⟩ | ⟨hst, hv⟩
  · by_cases hb : b = cfg.sync0 <;> simp_all [RxMeetsR62]
  · simp [RxMeetsR62, crc16, crcFold]
  · rcases rxSync1Mismatch_cases hv with ⟨-, rfl | rfl⟩ | ⟨ho, -⟩
    · exact hu
    · simpa [RxMeetsR62, hst] using hu
    · cases ho
  · exact rxHeader_keeps hst hu hv
  · exact rxPayload_keeps hst hu hv
  · exact rxTrailer_keeps hst hu hv

/-! ## Every event, and every step, keeps R62 -/

theorem txOpen_keeps {t : Byte} {n : Half} {s : State} (hi : s.tx.state = .idle) (hs : TxMeetsR62 s.tx) :
    TxMeetsR62 (txOpen t n s).tx := by
  have hr : s.tx.rem = 0#16 := hs.1 hi
  rw [txOpen_eq]
  by_cases hn : n = 0#16 <;> simp [TxMeetsR62, hn, hi, hr]

theorem txPass_keeps {b : Byte} {s : State} (hp : s.tx.state = .payload) : TxMeetsR62 (txPass b s).tx := by
  rw [txPass_eq]
  by_cases hr : s.tx.rem - 1#16 = 0#16
  · rw [TxMeetsR62]; simp only [hr, if_true]
  · rw [TxMeetsR62]; simp only [hr, if_false, hp, reduceCtorEq]

/-- An event keeps the TX unit's part. -/
theorem exec_keeps_tx {i : Instr} {s t : State} (hs : TxMeetsR62 s.tx) (h : exec i s = .next t) : TxMeetsR62 t.tx := by
  by_cases hu : i.unit = .tx
  case neg => rwa [exec_tx_unchanged hu h]
  case pos =>
    cases i <;> simp only [Instr.unit, reduceCtorEq] at hu
    case txStart y n =>
      rcases exec_txStart_cases h with ⟨-, rfl⟩ | ⟨hi, rfl⟩
      · exact hs
      · exact txOpen_keeps hi hs
    case txByte b =>
      rcases exec_txByte_cases h with ⟨-, rfl⟩ | ⟨hp, -, rfl⟩
      · exact hs
      · exact txPass_keeps hp

/-- An event keeps the RX unit's part. -/
theorem exec_keeps_rx {i : Instr} {s t : State} (hs : RxMeetsR62 s.cfg s.rx) (h : exec i s = .next t) :
    RxMeetsR62 t.cfg t.rx := by
  by_cases hu : i.unit = .rx
  case neg => rwa [exec_cfg_unchanged h, (exec_rx_res_unchanged hu h).1]
  case pos =>
    cases i <;> simp only [Instr.unit, reduceCtorEq] at hu
    case rxByte b =>
      obtain ⟨u, o, hstep, rfl⟩ := exec_rxByte_eq_next.1 h
      cases o with
      | none => exact rxStep_keeps hs hstep
      | some o => exact rxMeetsR62_of_seekSync0 _ rfl rfl
    case rxTimeout =>
      obtain ⟨-, rfl⟩ := exec_rxTimeout_eq_next.1 h
      exact rxMeetsR62_of_seekSync0 _ rfl rfl

/-- An event keeps the result's part: only an outcome writes `res_status`. -/
theorem exec_keeps_status {i : Instr} {s t : State} (hs : StatusAllowed s.cfg s.res.status) (h : exec i s = .next t) :
    StatusAllowed t.cfg t.res.status := by
  rw [exec_cfg_unchanged h]
  rcases exec_outcome_cases h with ⟨hr, -⟩ | ⟨u, o, rfl, -, hfit, -⟩
  · rwa [hr]
  · rw [takeOutcome_res, outcomeRes_status]
    exact hfit.statusAllowed

theorem exec_keeps_meetsR62 {i : Instr} {s t : State} (hs : MeetsR62 s) (h : exec i s = .next t) : MeetsR62 t := by
  rw [meetsR62_iff] at hs ⊢
  obtain ⟨hrx, htx, hres⟩ := hs
  exact ⟨exec_keeps_rx hrx h, exec_keeps_tx htx h, exec_keeps_status hres h⟩

end Sys2Proof.Machine
end

section
/-! SUPPORT. What every event keeps, a step keeps: the induction over one step's transaction, once. -/

namespace Sys2Proof.Machine

/-- What each event keeps, an event word keeps, if a usage error keeps it. -/
theorem applyWord_induct {P : State → Prop} {w : EventWord} {s t : State}
    (hexec : ∀ i s t, P s → exec i s = .next t → P t) (husage : ∀ w c s, P s → P (raiseUsage w c s)) (hs : P s)
    (h : applyWord w s = .next t) : P t := by
  cases hd : decode w with
  | event i => exact hexec i s t hs (applyWord_event hd s ▸ h)
  | malformed why =>
    rw [applyWord_malformed hd] at h
    cases h
    exact husage w _ s hs

/-- An invariant of the step: it reads neither the input nor the cycle-level registers nor the draw counter, usage errors
and events keep it, and it holds after a reset edge. -/
structure StepInvariant (P : State → Prop) : Prop where
  exec : ∀ i s t, P s → exec i s = .next t → P t
  usage : ∀ w c s, P s → P (raiseUsage w c s)
  input : ∀ s l, P s → P (s.setInput l)
  edge : ∀ s q, P s → P (s.setPort q).nextDraw
  reset : ∀ s, P (resetEdge s)

theorem StepInvariant.step {P : State → Prop} (hP : StepInvariant P) {s t : State} (hs : P s)
    (h : step s = .next t) : P t := by
  obtain ⟨-, ⟨-, -, rfl⟩ | ⟨w, rest, -, -, hw⟩ | ⟨p, rest, -, -, rfl⟩ | ⟨p, rest, -, -, -, hp⟩⟩ := step_eq_next h
  · exact hs
  · exact applyWord_induct hP.exec hP.usage (hP.input s rest hs) hw
  · exact hP.reset _
  · obtain ⟨u, hu, rfl⟩ := eventEdge_eq_next.1 hp
    exact hP.edge u _ (performAll_induct (fun i _ => hP.exec i) (hP.input s rest hs) hu)

end Sys2Proof.Machine
end

section
/-! SUPPORT. A decoded word is its event's word: the fields of a word put together again (30_encoding.md R100 to R106). -/

namespace Sys2Proof

open Sys2Proof.Machine

theorem eventIf_eq_event {z : Bool} {i j : Instr} : eventIf z i = .event j ↔ z = true ∧ i = j := by
  cases z <;> simp [eventIf]

/-- `TX_START`'s word is `OP`, `Z`, `T` and `D` side by side (R100, R102). -/
theorem encode_txStart_eq_append (t : Byte) (n : Half) : encode (.txStart t n) = 0x3#4 ++ 0#4 ++ t ++ n := by
  have hhi : 0x30000000#32 ||| t.setWidth 32 <<< 16 = 0x3#4 ++ 0#4 ++ t ++ 0#16 := by revert t; decide
  have hlo : n.setWidth 32 = 0#16 ++ n := BitVec.setWidth_eq_append (by omega)
  show 0x30000000#32 ||| t.setWidth 32 <<< 16 ||| n.setWidth 32 = _
  rw [hhi, hlo, BitVec.or_append]
  simp

theorem encode_crcByte_eq_append (b : Byte) : encode (.crcByte b) = 0x2#4 ++ 0#20 ++ b := by revert b; decide
theorem encode_txByte_eq_append (b : Byte) : encode (.txByte b) = 0x4#4 ++ 0#20 ++ b := by revert b; decide
theorem encode_rxByte_eq_append (b : Byte) : encode (.rxByte b) = 0x5#4 ++ 0#20 ++ b := by revert b; decide

/-- A word with bits [27:8] zero is its `OP` and its byte side by side. -/
theorem append_byteField_of_upperZero {w : EventWord} {op : BitVec 4} (hop : (opField w).toNat = op.toNat)
    (hz : upperZero w = true) : op ++ 0#20 ++ byteField w = w := by
  have hz : w.extractLsb' 8 20 = 0#20 := by simpa [upperZero] using hz
  have hhi : opField w ++ w.extractLsb' 8 20 = w.extractLsb' 8 24 :=
    BitVec.extractLsb'_append_extractLsb'_eq_extractLsb' rfl
  have hall : w.extractLsb' 8 24 ++ byteField w = w.extractLsb' 0 32 :=
    BitVec.extractLsb'_append_extractLsb'_eq_extractLsb' rfl
  rw [← BitVec.eq_of_toNat_eq hop, ← hz, hhi, hall, BitVec.extractLsb'_eq_self]

/-- A word with bits [27:24] zero is its `OP`, `T` and `D` side by side (R100). -/
theorem append_fields_of_zField {w : EventWord} {op : BitVec 4} (hop : (opField w).toNat = op.toNat)
    (hz : (zField w == 0#4) = true) : op ++ 0#4 ++ typeField w ++ lenField w = w := by
  have hop4 : opField w ++ zField w = w.extractLsb' 24 8 := BitVec.extractLsb'_append_extractLsb'_eq_extractLsb' rfl
  have hty : w.extractLsb' 24 8 ++ typeField w = w.extractLsb' 16 16 :=
    BitVec.extractLsb'_append_extractLsb'_eq_extractLsb' rfl
  have hall : w.extractLsb' 16 16 ++ lenField w = w.extractLsb' 0 32 :=
    BitVec.extractLsb'_append_extractLsb'_eq_extractLsb' rfl
  rw [← BitVec.eq_of_toNat_eq hop, ← beq_iff_eq.1 hz, hop4, hty, hall, BitVec.extractLsb'_eq_self]

/-- A word that decodes to an event is that event's word (R101, R104). -/
theorem encode_of_decode {w : EventWord} {i : Instr} (h : decode w = .event i) : encode i = w := by
  unfold decode at h
  split at h
  case h_9 => cases h
  all_goals
    rename_i hop
    obtain ⟨hz, rfl⟩ := eventIf_eq_event.1 h
  case h_1 => exact (beq_iff_eq.1 hz).symm
  case h_2 => exact (beq_iff_eq.1 hz).symm
  case h_3 => exact (encode_crcByte_eq_append _).trans (append_byteField_of_upperZero hop hz)
  case h_4 => exact (encode_txStart_eq_append _ _).trans (append_fields_of_zField hop hz)
  case h_5 => exact (encode_txByte_eq_append _).trans (append_byteField_of_upperZero hop hz)
  case h_6 => exact (encode_rxByte_eq_append _).trans (append_byteField_of_upperZero hop hz)
  case h_7 => exact (beq_iff_eq.1 hz).symm
  case h_8 => exact (beq_iff_eq.1 hz).symm

end Sys2Proof
end

section
/-! SUPPORT. The packing of `STATUS`, field by field (10_state.md R53). -/

namespace Sys2Proof.Machine

/-- The fields of `STATUS` with more than one bit (R53). -/
theorem packStatus_fields (busy : Bool) (s : State) : (packStatus busy s).extractLsb' 0 3 = s.rx.state.code ∧
    (packStatus busy s).extractLsb' 5 2 = s.usage.code.code ∧
    (packStatus busy s).extractLsb' 8 3 = s.res.status.code ∧
    (packStatus busy s).extractLsb' 12 3 = s.res.stage.code := by
  unfold packStatus
  refine ⟨?_, ?_, ?_, ?_⟩ <;> repeat rw [BitVec.extractLsb'_append_eq_of_le (by omega)]
  all_goals exact BitVec.extractLsb'_append_eq_right

/-- The one-bit fields of `STATUS` (R53). -/
theorem packStatus_bits (busy : Bool) (s : State) :
    (packStatus busy s).getLsbD 3 = busy ∧ (packStatus busy s).getLsbD 4 = s.usage.err := by
  unfold packStatus
  constructor <;> repeat rw [BitVec.getLsbD_append]
  all_goals simp

/-- The reserved bits of `STATUS` (R53). -/
theorem packStatus_reserved (busy : Bool) (s : State) {k : Nat} (hk : k = 7 ∨ k = 11 ∨ 15 ≤ k) :
    (packStatus busy s).getLsbD k = false := by
  unfold packStatus
  rcases hk with rfl | rfl | hk
  case inr.inr =>
    repeat rw [BitVec.getLsbD_append, if_neg (by omega)]
    exact BitVec.getLsbD_zero
  all_goals
    repeat rw [BitVec.getLsbD_append]
    simp

/-- The reset value of `STATUS` (R53). -/
theorem status_resetOf (c : Cfg) : status (State.resetOf c) = 0#32 := by
  show 0#17 ++ 0#3 ++ 0#1 ++ 0#3 ++ 0#1 ++ 0#2 ++ 0#1 ++ 0#1 ++ 0#3 = 0#32
  decide

end Sys2Proof.Machine
end

section
/-! SUPPORT. Where the block stops: the RX events and a step in states that break R62 (10_state.md R62, I4, I5). -/

namespace Sys2Proof.Machine

theorem exec_rxByte_of_error {b : Byte} {s : State} {f : Fault} (h : rxStep s.cfg b s.rx = .error f) :
    exec (.rxByte b) s = .fault f := by
  show execRxByte b s = _
  rw [execRxByte, h]

theorem rxStep_of_not_named {cfg : Cfg} {b : Byte} {u : RxUnit} (h : u.state.isNamed = false) :
    rxStep cfg b u = .error .rxStateUnreachable := by
  cases hs : u.state <;> simp_all [RxState.isNamed, rxStep]

theorem exec_rxTimeout_of_not_named {s : State} (h : s.rx.state.isNamed = false) :
    exec .rxTimeout s = .fault .rxStateUnreachable := by
  show execRxTimeout s = _
  rw [execRxTimeout, h]; rfl

theorem rxStep_header_of_idx {cfg : Cfg} {b : Byte} {u : RxUnit} (hs : u.state = .header) (hi : 3 < u.idx.toNat) :
    rxStep cfg b u = .error .rxIdxUnreachable := by
  have hne : ¬ u.idx.toNat < 4 := by omega
  simp only [rxStep, hs, rxHeader, hne, if_false]

theorem rxStep_payload_of_idx {cfg : Cfg} {b : Byte} {u : RxUnit} (hs : u.state = .payload)
    (hi : u.len.toNat ≤ u.idx.toNat) : rxStep cfg b u = .error .rxIdxUnreachable := by
  have hne : ¬ u.idx < u.len := BitVec.not_lt.2 hi
  simp only [rxStep, hs, rxPayload, hne, if_false]

theorem rxStep_trailer_of_idx {cfg : Cfg} {b : Byte} {u : RxUnit} (hs : u.state = .trailer) (hi : 1 < u.idx.toNat) :
    rxStep cfg b u = .error .rxIdxUnreachable := by
  have h0 : u.idx ≠ 0#16 := by bv_omega
  have h1 : u.idx ≠ 1#16 := by bv_omega
  simp only [rxStep, hs, rxTrailer, h0, h1, if_false]

/-- The check of R62 lets nothing pass from a state that breaks it. -/
theorem unlessBroken_of_broken {s : State} (h : ¬ MeetsR62 s) :
    ∃ f, ∀ x, unlessBroken s x = .fault f := by
  rw [← breach_eq_none] at h
  obtain ⟨f, hf⟩ := Option.ne_none_iff_exists'.1 h
  exact ⟨f, fun x => by rw [unlessBroken, hf]⟩

end Sys2Proof.Machine
end

section
/-! SUPPORT. The usage flags over an event word, and the payload buffer over an event (R51, R52, R60, R75). -/

namespace Sys2Proof.Machine

/-- An event word clears the usage flags as `ERR_CLR`'s, is a usage error reported with the word, or leaves the flags and
reports no usage error. -/
theorem applyWord_usage_cases {w : EventWord} {s t : State} (h : applyWord w s = .next t) :
    (w = 0x70000000#32 ∧ t = clearUsage s) ∨
    (w ≠ 0x70000000#32 ∧ ∃ c, t = raiseUsage w c s) ∨
    (w ≠ 0x70000000#32 ∧ t.usage = s.usage ∧ ∀ e ∈ newEvents s t, e.isUsageErr = false) := by
  have herr : decode 0x70000000#32 = .event .errClr := by decide
  cases hd : decode w with
  | malformed why =>
    rw [applyWord_malformed hd] at h
    cases h
    refine .inr (.inl ⟨?_, _, rfl⟩)
    rintro rfl
    cases herr.symm.trans hd
  | event i =>
    rw [applyWord_event hd] at h
    have hw : encode i = w := encode_of_decode hd
    have hne : i ≠ .errClr → w ≠ 0x70000000#32 := by
      rintro hi rfl
      cases herr.symm.trans hd
      exact hi rfl
    rcases exec_usage_cases h with ⟨rfl, ht⟩ | ⟨hi, hc⟩ | ⟨hi, ht⟩
    · exact .inl ⟨hw.symm, ht⟩
    · exact .inr (.inl ⟨hne hi, hw ▸ hc⟩)
    · exact .inr (.inr ⟨hne hi, ht⟩)

/-- An event leaves the buffer's cells, or is an `RX_BYTE` in `PAYLOAD` that stores at `rx_idx`, below the capacity. -/
theorem exec_buf_cases {i : Instr} {s t : State} (h : exec i s = .next t) :
    t.rx.bufSeed = s.rx.bufSeed ∧ (t.rx.buf = s.rx.buf ∨ ∃ b, i = .rxByte b ∧ s.rx.state = .payload ∧
      s.rx.idx.toNat < s.cfg.payloadCap ∧ t.rx.buf = bufPut s.rx.buf s.rx.idx.toNat b) := by
  by_cases hu : i.unit = .rx
  case neg => simp [(exec_rx_res_unchanged hu h).1]
  case pos =>
    cases i <;> simp only [Instr.unit, reduceCtorEq] at hu
    case rxByte b =>
      obtain ⟨u, o, hstep, rfl⟩ := exec_rxByte_eq_next.1 h
      have hafter : (afterRx s u o).rx.bufSeed = u.bufSeed ∧ (afterRx s u o).rx.buf = u.buf := by
        cases o <;> exact ⟨rfl, rfl⟩
      rw [hafter.1, hafter.2]
      obtain ⟨hseed, hb | ⟨hst, -, hcap, hb⟩⟩ := rxStep_buf hstep
      · exact ⟨hseed, .inl hb⟩
      · exact ⟨hseed, .inr ⟨b, rfl, hst, hcap, hb⟩⟩
    case rxTimeout =>
      obtain ⟨-, rfl⟩ := exec_rxTimeout_eq_next.1 h
      exact ⟨rfl, .inl rfl⟩

/-- An event keeps the canonical form of the buffer. -/
theorem exec_keeps_wf {i : Instr} {s t : State} (hs : Memory.wf s.cfg.payloadCap s.rx.buf = true)
    (h : exec i s = .next t) : Memory.wf t.cfg.payloadCap t.rx.buf = true := by
  rw [exec_cfg_unchanged h]
  obtain ⟨-, hb | ⟨b, -, -, hcap, hb⟩⟩ := exec_buf_cases h <;> rw [hb]
  · exact hs
  · exact wf_bufPut b hcap hs

/-- Every cell reads as before but the one an `RX_BYTE` in `PAYLOAD` stores at `rx_idx`. -/
theorem exec_bufRead {i : Instr} {s t : State} (h : exec i s = .next t) {a : Nat}
    (ha : ¬ ((∃ b, i = .rxByte b) ∧ s.rx.state = .payload ∧ a = s.rx.idx.toNat)) :
    bufRead t.cfg t.rx a = bufRead s.cfg s.rx a := by
  rw [exec_cfg_unchanged h]
  obtain ⟨hseed, hb | ⟨b, hi, hst, hcap, hb⟩⟩ := exec_buf_cases h
  · exact bufRead_congr a hb hseed
  · have hne : a ≠ s.rx.idx.toNat := fun he => ha ⟨⟨b, hi⟩, hst, he⟩
    rw [bufRead_of_bufPut hcap hb hseed, if_neg hne]

/-- No event moves the configuration or takes from the input. -/
theorem exec_keeps_cfg_input {c : Cfg} {l : List Input} (i : Instr) (s t : State) (hs : s.cfg = c ∧ s.input = l)
    (h : exec i s = .next t) : t.cfg = c ∧ t.input = l := by
  obtain ⟨hc, -, hi, -⟩ := exec_outside_unchanged h
  rwa [hc, hi]

end Sys2Proof.Machine
end

section
/-! The statements of 10_state.md. -/

namespace Sys2Proof.Machine

/-- Settles O45: the RX unit, the TX unit and the result registers each keep their part of R62 over every event, and a
reset leaves an idle block. -/
theorem stepKeepsR62 : Obligations.StepKeepsR62 := by
  unfold Obligations.StepKeepsR62
  intro s t
  refine StepInvariant.step ⟨?_, ?_, ?_, ?_, ?_⟩
  · exact fun _ _ _ => exec_keeps_meetsR62
  · exact fun _ _ _ hs => hs.congr rfl rfl rfl rfl
  · exact fun _ _ hs => hs.congr rfl rfl rfl rfl
  · exact fun _ _ hs => hs.congr rfl rfl rfl rfl
  · exact fun _ => meetsR62_of_idle rfl rfl rfl rfl rfl

/-- Settles O47: a step writes the buffer only by `BufWrite` below the capacity, and a reset empties the list. -/
theorem stepKeepsTheBufferCanonical : Obligations.StepKeepsTheBufferCanonical := by
  unfold Obligations.StepKeepsTheBufferCanonical
  intro s t
  refine StepInvariant.step (P := fun s => Memory.wf s.cfg.payloadCap s.rx.buf = true) ⟨?_, ?_, ?_, ?_, ?_⟩
  · exact fun _ _ _ => exec_keeps_wf
  · exact fun _ _ _ hs => hs
  · exact fun _ _ hs => hs
  · exact fun _ _ hs => hs
  · exact fun s => wf_reset s.cfg

/-- Settles O24: an event that ends no attempt leaves the result registers; one that does writes them as its outcome says,
and the outcome fits the registers it reads. -/
theorem outcomeWritesItsResultRegisters : Obligations.OutcomeWritesItsResultRegisters := by
  unfold Obligations.OutcomeWritesItsResultRegisters
  intro i s t h
  rcases exec_outcome_cases h with ⟨hres, hev⟩ | ⟨u, o, rfl, hev, hfit, -⟩
  · refine ⟨fun _ => hres, fun e he => ?_⟩
    have hno := hev e he
    cases e with
    | txByte => exact hres
    | usageErr => exact hres
    | _ => cases hno
  · rw [hev]
    refine ⟨fun hno => by simp at hno, fun e he => ?_⟩
    obtain rfl := List.mem_singleton.1 he
    cases o with
    | frameOk x =>
      obtain rfl : x = u.crc := hfit
      exact ⟨rfl, rfl, by simp [bufPayload], rfl⟩
    | crcErr x => exact ⟨rfl, rfl, rfl, rfl, hfit, rfl⟩
    | lenErr => exact ⟨rfl, rfl, rfl, rfl⟩
    | syncErr b => rfl
    | timeout st => exact ⟨rfl, hfit⟩

/-- Settles O25: the outcome action resets `rx_state` and `rx_idx`, and the byte that ends an attempt writes no cell. -/
theorem outcomeLeavesNoPartialFrame : Obligations.OutcomeLeavesNoPartialFrame := by
  unfold Obligations.OutcomeLeavesNoPartialFrame
  intro i s t h hany
  rcases exec_outcome_cases h with ⟨-, hev⟩ | ⟨u, o, rfl, -, -, hbuf, hseed⟩
  · obtain ⟨e, he, ho⟩ := List.any_eq_true.1 hany
    rw [hev e he] at ho
    cases ho
  · exact ⟨rfl, rfl, fun a => bufRead_congr a hbuf hseed⟩

/-- Settles O27: an outcome that fits is one the configuration allows; a length is at most 65535. -/
theorem configurationExcludesOutcomes : Obligations.ConfigurationExcludesOutcomes := by
  unfold Obligations.ConfigurationExcludesOutcomes
  intro i s t h e he
  rcases exec_outcome_cases h with ⟨-, hev⟩ | ⟨u, o, rfl, hev, hfit, -⟩
  · have hno := hev e he
    exact ⟨fun v ty n ho => (by subst ho; cases hno), fun b ho => (by subst ho; cases hno)⟩
  · obtain ⟨hlen, hsync⟩ := hfit.allowed
    rw [hev] at he
    obtain rfl := List.mem_singleton.1 he
    refine ⟨fun v ty n ho => hlen ?_, fun b ho => hsync b ?_⟩ <;> cases o <;> cases ho <;> rfl

/-- Settles O37, by the three ways an event word treats the usage flags. -/
theorem usageErrIsSticky : Obligations.UsageErrIsSticky := by
  unfold Obligations.UsageErrIsSticky
  intro w s t h
  refine ⟨?_, ?_, ?_, ?_⟩
  · intro v c hev
    rcases applyWord_usage_cases h with ⟨-, rfl⟩ | ⟨-, d, rfl⟩ | ⟨-, -, hno⟩
    · simp [newEvents, clearUsage] at hev
    · rw [newEvents_of_trace (raiseUsage_trace ..)] at hev
      cases List.mem_singleton.1 hev
      exact ⟨rfl, rfl⟩
    · cases hno _ hev
  · intro hset hw
    rcases applyWord_usage_cases h with ⟨he, -⟩ | ⟨-, d, rfl⟩ | ⟨-, hu, -⟩
    · exact absurd he hw
    · rfl
    · rwa [hu]
  · intro hw
    rcases applyWord_usage_cases h with ⟨-, rfl⟩ | ⟨hne, -⟩ | ⟨hne, -⟩
    · rfl
    · exact absurd hw hne
    · exact absurd hw hne
  · rintro ⟨i, hd, hi⟩
    rw [applyWord_event hd] at h
    exact (exec_rx_usage hi h).1

/-- Settles O38, from the write columns of R60, the usage flags' cases and the buffer's one written cell. -/
theorem eventsChangeOnlyTheirUnit : Obligations.EventsChangeOnlyTheirUnit := by
  unfold Obligations.EventsChangeOnlyTheirUnit
  intro i s t h
  refine ⟨(exec_crcGen_unchanged · h), (exec_tx_unchanged · h), (exec_rx_res_unchanged · h), ?_,
    exec_outside_unchanged h, fun a => exec_bufRead h⟩
  intro hi hno
  rcases exec_usage_cases h with ⟨he, -⟩ | ⟨-, c, rfl⟩ | ⟨-, hu, -⟩
  · exact absurd he hi
  · rw [newEvents_of_trace (raiseUsage_trace ..)] at hno
    cases hno
  · exact hu

/-- Settles O48: but for a reset cycle every transaction passes the check of R62 first. -/
theorem brokenStateFaults : Obligations.BrokenStateFaults := by
  unfold Obligations.BrokenStateFaults
  intro s hl hm hrst
  obtain ⟨f, hf⟩ := unlessBroken_of_broken hm
  refine ⟨f, ?_⟩
  rw [step_of_legal hl, takeInput]
  split
  case h_1 => exact hf _
  case h_2 => exact hf _
  case h_3 p rest hi =>
    rw [if_neg (by simp [hrst p rest hi])]
    exact hf _

/-- Settles O50: a step takes its transaction off the input, and no event touches the configuration or the input. -/
theorem configurationNeverChanges : Obligations.ConfigurationNeverChanges := by
  unfold Obligations.ConfigurationNeverChanges
  intro s t h
  obtain ⟨-, ⟨hi, -, rfl⟩ | ⟨w, rest, hi, -, hw⟩ | ⟨p, rest, hi, -, rfl⟩ | ⟨p, rest, hi, -, -, hp⟩⟩ := step_eq_next h
  · rw [hi]; exact ⟨rfl, rfl⟩
  · rw [hi]
    exact applyWord_induct (P := fun u => u.cfg = s.cfg ∧ u.input = rest) (s := s.setInput rest)
      exec_keeps_cfg_input (fun _ _ _ hs => hs) ⟨rfl, rfl⟩ hw
  · rw [hi]; exact ⟨rfl, rfl⟩
  · obtain ⟨u, hu, rfl⟩ := eventEdge_eq_next.1 hp
    rw [hi]
    exact performAll_induct (P := fun u => u.cfg = s.cfg ∧ u.input = rest) (s := s.setInput rest) (t := u)
      (fun i _ => exec_keeps_cfg_input i) ⟨rfl, rfl⟩ hu

/-- Settles O23, by the state the byte meets. -/
theorem rxEventsFaultInUnreachableStates : Obligations.RxEventsFaultInUnreachableStates := by
  unfold Obligations.RxEventsFaultInUnreachableStates
  intro b s
  exact ⟨fun hn => ⟨exec_rxByte_of_error (rxStep_of_not_named hn), exec_rxTimeout_of_not_named hn⟩,
    fun hs hi => exec_rxByte_of_error (rxStep_header_of_idx hs hi),
    fun hs hi => exec_rxByte_of_error (rxStep_payload_of_idx hs hi),
    fun hs hi => exec_rxByte_of_error (rxStep_trailer_of_idx hs hi)⟩

/-- Settles O43: the codes are the definitions', and each field of the packing is cut out of the concatenation. -/
theorem statusIsThePackedView : Obligations.StatusIsThePackedView := by
  unfold Obligations.StatusIsThePackedView
  refine ⟨rfl, rfl, rfl, rfl, fun s => ?_, status_resetOf⟩
  obtain ⟨hrx, hcode, hstatus, hstage⟩ := packStatus_fields (txBusy s) s
  obtain ⟨hbusy, herr⟩ := packStatus_bits (txBusy s) s
  have hres {k : Nat} : k = 7 ∨ k = 11 ∨ 15 ≤ k → (status s).getLsbD k = false := packStatus_reserved (txBusy s) s
  exact ⟨hrx, hbusy, herr, hcode, hres (by simp), hstatus, hres (by simp), hstage, fun k hk => hres (by simp [hk])⟩

/-- Settles O46: the reset state is an idle block with an empty buffer list. -/
theorem resetIsSafe : Obligations.ResetIsSafe := by
  unfold Obligations.ResetIsSafe
  exact fun c hc => ⟨hc, meetsR62_of_idle rfl rfl rfl rfl rfl, wf_reset c⟩

end Sys2Proof.Machine
end

section
/-! SUPPORT. An event seen through its unit: what it reads, and its effect put on another state (10_state.md R60). -/

namespace Sys2Proof.Machine

/-! ## The effect of an event, put on a state -/

/-- `s'` looks like `s` to an event of unit `c`: they agree in the configuration and in the registers the event reads. -/
def SameFor (c : CodecUnit) (s s' : State) : Prop :=
  s'.cfg = s.cfg ∧
    match c with
    | .crc => s'.crcGen = s.crcGen
    | .tx => s'.tx = s.tx
    | .rx => s'.rx = s.rx ∧ s'.res = s.res
    | .control => s'.usage = s.usage

/-- The registers an event of unit `c` writes taken from `u`, the others from `s'`; a TX event writes the usage flags
exactly if its outputs `evs` report a usage error. -/
def withUnitOf (c : CodecUnit) (u : State) (evs : List OutEvent) (s' : State) : State :=
  match c with
  | .crc => s'.setCrcGen u.crcGen
  | .tx => (s'.setTx u.tx).setUsage (if evs.any OutEvent.isUsageErr then u.usage else s'.usage)
  | .rx => (s'.setRx u.rx).setRes u.res
  | .control => s'.setUsage u.usage

/-- The effect of an event of unit `c` that takes `s` to `u`, put on `s'`: its unit's registers, and its outputs after those
of `s'`. -/
def replay (c : CodecUnit) (s u s' : State) : State := (withUnitOf c u (newEvents s u) s').emit (newEvents s u)

@[simp] theorem replay_trace (c : CodecUnit) (s u s' : State) : (replay c s u s').trace = s'.trace ++ newEvents s u := by
  cases c <;> rfl

theorem SameFor.refl (c : CodecUnit) (s : State) : SameFor c s s := by
  cases c <;> simp [SameFor]

theorem SameFor.symm {c : CodecUnit} {s s' : State} (h : SameFor c s s') : SameFor c s' s := by
  cases c <;> simp_all [SameFor]

/-- On a state that looks like `s` to an event, the event has the effect it has on `s`. -/
theorem exec_eq_replay {i : Instr} {s s' v : State} (hsame : SameFor i.unit s s') (h : exec i s' = .next v) :
    ∃ u, exec i s = .next u ∧ v = replay i.unit s u s' := by
  obtain ⟨hcfg, hregs⟩ := hsame
  cases hu : i.unit <;> rw [hu] at hregs
  case tx =>
    obtain ⟨u, hs, hv, -⟩ := exec_tx_local hu hcfg hregs h
    exact ⟨u, hs, hv⟩
  case rx =>
    obtain ⟨hrx, hres⟩ := hregs
    obtain ⟨u, hs, hv, -⟩ := exec_rx_local hu hcfg hrx hres h
    exact ⟨u, hs, hv⟩
  case crc =>
    cases i <;> simp only [Instr.unit, reduceCtorEq] at hu <;> cases h <;> refine ⟨_, rfl, ?_⟩ <;>
      simp [replay, withUnitOf, newEvents, State.setCrcGen, State.emit, hcfg, hregs]
  case control =>
    cases i <;> simp only [Instr.unit, reduceCtorEq] at hu <;> cases h <;> refine ⟨_, rfl, ?_⟩ <;>
      simp [replay, withUnitOf, newEvents, State.setUsage, State.emit, clearUsage, ← hregs]

/-- An event's own effect, put on the state it was applied to, is the state it leaves. -/
theorem eq_replay_of_exec {i : Instr} {s t : State} (h : exec i s = .next t) : t = replay i.unit s t s := by
  obtain ⟨u, hu, ht⟩ := exec_eq_replay (.refl _ s) h
  cases hu.symm.trans h
  exact ht

/-- An event that completes adds its outputs to the trace. -/
theorem exec_trace {i : Instr} {s t : State} (h : exec i s = .next t) : t.trace = s.trace ++ newEvents s t :=
  (congrArg State.trace (eq_replay_of_exec h)).trans (replay_trace ..)

/-! ## Events of two units -/

/-- An event changes nothing an event of another unit reads. A control event stands apart: it writes the usage flags, which
a TX event writes too. -/
theorem exec_sameFor {j : Instr} {c : CodecUnit} {s t : State} (hne : j.unit ≠ c) (hc : c ≠ .control)
    (h : exec j s = .next t) : SameFor c s t := by
  refine ⟨exec_cfg_unchanged h, ?_⟩
  cases c
  case crc => exact exec_crcGen_unchanged hne h
  case tx => exact exec_tx_unchanged hne h
  case rx => exact exec_rx_res_unchanged hne h
  case control => exact absurd rfl hc

/-- An event completes after one of another unit if it completes before it, and with the same effect. -/
theorem exec_after_other {i j : Instr} {s t u : State} (hne : j.unit ≠ i.unit) (hi : i.unit ≠ .control)
    (ht : exec j s = .next t) (hu : exec i s = .next u) : exec i t = .next (replay i.unit s u t) := by
  have hsame := exec_sameFor hne hi ht
  obtain ⟨v, hv, -⟩ := exec_eq_replay hsame.symm hu
  obtain ⟨u', hu', rfl⟩ := exec_eq_replay hsame hv
  cases hu.symm.trans hu'
  exact hv

/-- The effects of events of two units, put on one state, are the same in either order but for the trace. -/
theorem replay_comm {c d : CodecUnit} (hne : c ≠ d) (hc : c ≠ .control) (hd : d ≠ .control) (s u v s' : State) :
    { replay d s v (replay c s u s') with trace := [] } = { replay c s u (replay d s v s') with trace := [] } := by
  cases c <;> cases d <;> simp only [ne_eq, reduceCtorEq, not_true_eq_false] at hne hc hd <;> rfl

end Sys2Proof.Machine
end

section
/-! The statements of 20_memory.md. -/

namespace Sys2Proof.Machine

/-- Settles O39: each event has the effect it has on the state before both, and the effects of two units commute. -/
theorem eventsOfDifferentUnitsCommute : Obligations.EventsOfDifferentUnitsCommute := by
  unfold Obligations.EventsOfDifferentUnitsCommute
  intro i j s s1 s12 hne hi hj h1 h12
  obtain ⟨s2, h2, rfl⟩ := exec_eq_replay (exec_sameFor hne hj h1) h12
  refine ⟨s2, replay i.unit s s1 s2, h2, exec_after_other hne.symm hi h2 h1, ?_, ?_, ?_⟩
  · rw [replay_trace, exec_trace h1]
  · rw [replay_trace, exec_trace h2]
  · have hcomm := replay_comm hne hi hj s s1 s2 s
    rwa [← eq_replay_of_exec h1, ← eq_replay_of_exec h2] at hcomm

/-- Settles O41, from the answer of `BufWrite` and what a read returns once the cell is in the list. -/
theorem bufferReadsWhatWasWritten : Obligations.BufferReadsWhatWasWritten := by
  unfold Obligations.BufferReadsWhatWasWritten
  intro cfg u i b
  refine ⟨fun hi => ?_, fun hi => if_neg (Nat.not_lt.2 hi), fun a ha => if_neg (Nat.not_lt.2 ha)⟩
  have hread := bufRead_of_bufPut (u := u) (v := { u with buf := bufPut u.buf i b }) hi rfl rfl
  refine ⟨_, bufWrite_eq b hi, rfl, ?_, fun a ha => ?_⟩
  · rw [hread, if_pos rfl]
  · rw [hread, if_neg ha]

end Sys2Proof.Machine
end

section
/-! SUPPORT. Decoding the word of an event, and the rows of the opcode map as sets of such words (30_encoding.md R101 to
R106). -/

namespace Sys2Proof

open Sys2Proof.Machine

/-! ## A word with its fields side by side -/

/-- The decoder on a word with `OP` = 3 (R101). -/
theorem decode_of_opField_three {w : EventWord} (h : opField w = 0x3#4) :
    decode w = eventIf (zField w == 0#4) (.txStart (typeField w) (lenField w)) := by
  unfold decode
  rw [h]
  rfl

/-- The fields of `OP`, `Z`, `T` and `D` side by side (R100). -/
theorem fields_append (op z : BitVec 4) (t : Byte) (n : Half) :
    opField (op ++ z ++ t ++ n) = op ∧ zField (op ++ z ++ t ++ n) = z ∧
      typeField (op ++ z ++ t ++ n) = t ∧ lenField (op ++ z ++ t ++ n) = n := by
  unfold opField zField typeField lenField
  refine ⟨?_, ?_, ?_, BitVec.extractLsb'_append_eq_right⟩ <;>
    repeat rw [BitVec.extractLsb'_append_eq_of_le (by omega)]
  · exact BitVec.extractLsb'_eq_self
  all_goals exact BitVec.extractLsb'_append_eq_right

/-- Decoding the word of an event gives the event back (R101 to R103, R106). -/
theorem decode_encode (i : Instr) : decode (encode i) = .event i := by
  cases i with
  | nop => decide
  | crcInit => decide
  | crcByte b => revert b; decide
  | txStart t n =>
    obtain ⟨hop, hz, ht, hn⟩ := fields_append 0x3#4 0#4 t n
    rw [encode_txStart_eq_append, decode_of_opField_three hop, hz, ht, hn]
    rfl
  | txByte b => revert b; decide
  | rxByte b => revert b; decide
  | rxTimeout => decide
  | errClr => decide

theorem decode_eq_event_iff {w : EventWord} {i : Instr} : decode w = .event i ↔ encode i = w :=
  ⟨encode_of_decode, fun h => h ▸ decode_encode i⟩

/-! ## The rows of the opcode map -/

theorem encode_matches_its_row (i : Instr) : ∃ r ∈ opcodeMap, r.mnemonic = i.mnemonic ∧ r.matchesWord (encode i) := by
  cases i with
  | nop => exact Laws.EncodedWordIsOfItsRow.nop
  | crcInit => exact Laws.EncodedWordIsOfItsRow.crcInit
  | crcByte b => exact Laws.EncodedWordIsOfItsRow.crcByte b
  | txStart t n => exact Laws.EncodedWordIsOfItsRow.txStart t n
  | txByte b => exact Laws.EncodedWordIsOfItsRow.txByte b
  | rxByte b => exact Laws.EncodedWordIsOfItsRow.rxByte b
  | rxTimeout => exact Laws.EncodedWordIsOfItsRow.rxTimeout
  | errClr => exact Laws.EncodedWordIsOfItsRow.errClr

/-- No two rows have one mnemonic. -/
theorem opcodeMap_mnemonics_differ : opcodeMap.Pairwise fun r q => r.mnemonic ≠ q.mnemonic := by decide

theorem row_eq_of_mnemonic : ∀ r ∈ opcodeMap, ∀ q ∈ opcodeMap, r.mnemonic = q.mnemonic → r = q := by decide

/-- Under the mask of a byte event, a word is the masked word with its byte put in (R102). -/
theorem or_byteField (w : EventWord) : (w &&& 0xFFFFFF00#32) ||| (byteField w).setWidth 32 = w := by
  have hw : w.extractLsb' 8 24 ++ byteField w = w :=
    (BitVec.extractLsb'_append_extractLsb'_eq_extractLsb' rfl).trans BitVec.extractLsb'_eq_self
  have hb : (byteField w).setWidth 32 = 0#24 ++ byteField w := BitVec.setWidth_eq_append (by omega)
  have hmask : w &&& 0xFFFFFF00#32 = w.extractLsb' 8 24 ++ 0#8 := by
    conv_lhs => rw [← hw]
    show _ &&& (BitVec.allOnes 24 ++ 0#8) = _
    rw [BitVec.and_append, BitVec.and_allOnes, BitVec.and_zero]
  rw [hb, hmask, BitVec.or_append, BitVec.or_zero, BitVec.zero_or, hw]

/-- Under the mask of `TX_START`, a word is the masked word with its type and length put in (R102). -/
theorem or_typeField_lenField (w : EventWord) :
    (w &&& 0xFF000000#32) ||| (typeField w).setWidth 32 <<< 16 ||| (lenField w).setWidth 32 = w := by
  have hhi : w.extractLsb' 24 8 ++ typeField w = w.extractLsb' 16 16 :=
    BitVec.extractLsb'_append_extractLsb'_eq_extractLsb' rfl
  have hw : w.extractLsb' 24 8 ++ typeField w ++ lenField w = w :=
    (congrArg (· ++ lenField w) hhi).trans
      ((BitVec.extractLsb'_append_extractLsb'_eq_extractLsb' rfl).trans BitVec.extractLsb'_eq_self)
  have ht : (typeField w).setWidth 32 <<< 16 = 0#8 ++ typeField w ++ 0#16 := by
    generalize typeField w = t
    revert t; decide
  have hn : (lenField w).setWidth 32 = 0#16 ++ lenField w := BitVec.setWidth_eq_append (by omega)
  have hmask : w &&& 0xFF000000#32 = w.extractLsb' 24 8 ++ 0#8 ++ 0#16 := by
    conv_lhs => rw [← hw]
    show _ &&& (BitVec.allOnes 8 ++ 0#8 ++ 0#16) = _
    rw [BitVec.and_append, BitVec.and_append, BitVec.and_allOnes, BitVec.and_zero, BitVec.and_zero]
  rw [ht, hn, hmask]
  iterate 3 rw [BitVec.or_append]
  simp only [BitVec.or_zero, BitVec.zero_or, hw]

/-- A row's words are those of the events with its mnemonic. -/
theorem exists_encode_of_matchesWord {r : OpcodeRow} (hr : r ∈ opcodeMap) {w : EventWord} (h : r.matchesWord w) :
    ∃ i, encode i = w ∧ i.mnemonic = r.mnemonic := by
  have hfull {x : EventWord} (hx : w &&& 0xFFFFFFFF#32 = x) : x = w := hx.symm.trans BitVec.and_allOnes
  have hbyte {x : EventWord} (hx : w &&& 0xFFFFFF00#32 = x) : x ||| (byteField w).setWidth 32 = w := hx ▸ or_byteField w
  simp only [opcodeMap, List.mem_cons, List.not_mem_nil, or_false] at hr
  rcases hr with rfl | rfl | rfl | rfl | rfl | rfl | rfl | rfl
  · exact ⟨.nop, hfull h, rfl⟩
  · exact ⟨.crcInit, hfull h, rfl⟩
  · exact ⟨.crcByte _, hbyte h, rfl⟩
  · exact ⟨.txStart _ _, (congrArg (· ||| _ ||| _) h.symm).trans (or_typeField_lenField w), rfl⟩
  · exact ⟨.txByte _, hbyte h, rfl⟩
  · exact ⟨.rxByte _, hbyte h, rfl⟩
  · exact ⟨.rxTimeout, hfull h, rfl⟩
  · exact ⟨.errClr, hfull h, rfl⟩

/-- A word matches a row exactly when it decodes to an event of the row's mnemonic (R101). -/
theorem matchesWord_iff {r : OpcodeRow} (hr : r ∈ opcodeMap) (w : EventWord) :
    r.matchesWord w ↔ ∃ i, decode w = .event i ∧ i.mnemonic = r.mnemonic := by
  simp only [decode_eq_event_iff]
  constructor
  · exact exists_encode_of_matchesWord hr
  · rintro ⟨i, rfl, hi⟩
    obtain ⟨q, hq, hqi, hmatch⟩ := encode_matches_its_row i
    rwa [row_eq_of_mnemonic r hr q hq (hi.symm.trans hqi.symm)]

end Sys2Proof
end

section
/-! SUPPORT. A frame coming into the RX unit, stage by stage (42_decoder.md R161 to R174). -/

namespace Sys2Proof.Machine

/-! ## One byte, by the state it meets -/

theorem rxStep_seekSync0_sync0 {cfg : Cfg} {u : RxUnit} (hs : u.state = .seekSync0) :
    rxStep cfg cfg.sync0 u = .ok ({ u with state := .seekSync1 }, none) := by
  simp [rxStep, hs, rxSeekSync0]

theorem rxStep_seekSync1_sync1 {cfg : Cfg} {u : RxUnit} (hs : u.state = .seekSync1) :
    rxStep cfg cfg.sync1 u = .ok ({ u with state := .header, idx := 0#16, crc := cfg.crcInit }, none) := by
  simp [rxStep, hs, rxSeekSync1]

theorem rxStep_header_of_le_two {cfg : Cfg} {b : Byte} {u : RxUnit} (hs : u.state = .header) (hi : u.idx.toNat ≤ 2) :
    rxStep cfg b u =
      .ok ({ u with hdr := u.hdr.put u.idx.toNat b, crc := crcStep cfg u.crc b, idx := u.idx + 1#16 }, none) := by
  have hlt : u.idx.toNat < 4 := by omega
  have hne : ¬ u.idx + 1#16 = 4#16 := by bv_omega
  simp only [rxStep, hs, rxHeader, hlt, hne, if_true, if_false]

theorem rxStep_header_last {cfg : Cfg} {b : Byte} {u : RxUnit} (hs : u.state = .header) (hi : u.idx = 3#16) :
    rxStep cfg b u =
      .ok (rxHeaderComplete cfg { u with hdr := { u.hdr with lenLo := b }, crc := crcStep cfg u.crc b, idx := 4#16 }) := by
  simp [rxStep, hs, rxHeader, hi, Header.put]

theorem rxStep_payload {cfg : Cfg} {b : Byte} {u : RxUnit} (hs : u.state = .payload)
    (hi : u.idx.toNat < u.len.toNat) (hcap : u.idx.toNat < cfg.payloadCap) :
    rxStep cfg b u = .ok ({ u with
      buf := bufPut u.buf u.idx.toNat b
      crc := crcStep cfg u.crc b
      state := if u.idx + 1#16 = u.len then .trailer else .payload
      idx := if u.idx + 1#16 = u.len then 0#16 else u.idx + 1#16 }, none) := by
  have hlt : u.idx < u.len := hi
  simp only [rxStep, hs, rxPayload, hlt, if_true, bufWrite_eq b hcap]
  split <;> rfl

theorem rxStep_trailer_first {cfg : Cfg} {b : Byte} {u : RxUnit} (hs : u.state = .trailer) (hi : u.idx = 0#16) :
    rxStep cfg b u = .ok ({ u with trlHi := b, idx := 1#16 }, none) := by
  simp [rxStep, hs, rxTrailer, hi]

theorem rxStep_trailer_second {cfg : Cfg} {b : Byte} {u : RxUnit} (hs : u.state = .trailer) (hi : u.idx = 1#16) :
    rxStep cfg b u = .ok (u, some (rxVerify b u)) := by
  simp [rxStep, hs, rxTrailer, hi]

/-! ## Bytes one after another -/

theorem exec_rxByte_of_ok {b : Byte} {s : State} {u : RxUnit} {o : Option RxOutcome}
    (h : rxStep s.cfg b s.rx = .ok (u, o)) : exec (.rxByte b) s = .next (afterRx s u o) :=
  exec_rxByte_eq_next.2 ⟨u, o, h, rfl⟩

@[simp] theorem rxBytes_nil : rxBytes [] = [] := rfl

@[simp] theorem rxBytes_cons (b : Byte) (bs : List Byte) : rxBytes (b :: bs) = .rxByte b :: rxBytes bs := rfl

@[simp] theorem rxBytes_append (a b : List Byte) : rxBytes (a ++ b) = rxBytes a ++ rxBytes b := List.map_append

/-- A byte that ends no attempt moves the RX unit only. -/
theorem performAll_rxBytes_cons {b : Byte} {bs : List Byte} {s : State} {u : RxUnit}
    (h : rxStep s.cfg b s.rx = .ok (u, none)) :
    performAll (rxBytes (b :: bs)) s = performAll (rxBytes bs) (s.setRx u) := by
  rw [rxBytes_cons, performAll_cons, exec_rxByte_of_ok h]
  rfl

theorem performAll_trace_prefix {es : List Instr} {s t : State} (h : performAll es s = .next t) :
    s.trace <+: t.trace := by
  refine performAll_induct (P := fun u => s.trace <+: u.trace) (fun i _ u v hu hv => ?_) (List.prefix_refl _) h
  rw [exec_trace hv]
  exact hu.trans (List.prefix_append _ _)

/-- If a sequence of events reports nothing, no beginning of it does. -/
theorem performAll_quiet_of_append {a b : List Instr} {s t : State} (h : performAll (a ++ b) s = .next t)
    (hquiet : t.trace = s.trace) : ∃ u, performAll a s = .next u ∧ u.trace = s.trace := by
  obtain ⟨u, ha, hb⟩ := performAll_append_eq_next.1 h
  have hback : u.trace <+: s.trace := hquiet ▸ performAll_trace_prefix hb
  exact ⟨u, ha, hback.eq_of_length_le (performAll_trace_prefix ha).length_le⟩

/-! ## Header and payload -/

theorem bufPayload_congr {cfg : Cfg} {u v : RxUnit} (n : Nat) (hb : v.buf = u.buf) (hs : v.bufSeed = u.bufSeed) :
    bufPayload cfg v n = bufPayload cfg u n :=
  List.map_congr_left fun a _ => bufRead_congr a hb hs

/-- One more payload byte in the buffer is one more byte of the payload. -/
theorem bufPayload_succ_of_bufPut {cfg : Cfg} {u v : RxUnit} {i : Nat} {b : Byte} (hi : i < cfg.payloadCap)
    (hb : v.buf = bufPut u.buf i b) (hs : v.bufSeed = u.bufSeed) :
    bufPayload cfg v (i + 1) = bufPayload cfg u i ++ [b] :=
  List.append_cancel_left (rxCovered_succ_of_bufPut (u := { u with hdr := v.hdr }) hi rfl hb hs)

theorem crcBody_concat (h : Header) (q : List Byte) (b : Byte) : crcBody h (q ++ [b]) = crcBody h q ++ [b] := by
  simp [crcBody]

/-- The RX unit's registers hold the header `h`, and with the buffer the payload bytes `q` (R164 to R167). -/
structure HoldsFrame (cfg : Cfg) (h : Header) (q : List Byte) (u : RxUnit) : Prop where
  hdr : u.hdr = h
  len : u.len = be16 h.lenHi h.lenLo
  buffer : bufPayload cfg u q.length = q
  crc : u.crc = crc16 cfg (crcBody h q)

/-- The RX unit has taken the header `h` and the payload bytes `q`: in `PAYLOAD` while bytes are owed, in `TRAILER` once
all are in. -/
structure Received (cfg : Cfg) (h : Header) (q : List Byte) (u : RxUnit) : Prop extends HoldsFrame cfg h q u where
  owed : q.length < u.len.toNat → u.state = .payload ∧ u.idx.toNat = q.length
  complete : q.length = u.len.toNat → u.state = .trailer ∧ u.idx = 0#16

/-- The first three header bytes are stored, and stepped into the CRC (R164). -/
theorem performAll_three_header_bytes {s : State} (hs : s.rx.state = .header) (hi : s.rx.idx = 0#16) (a b c : Byte)
    (bs : List Byte) : performAll (rxBytes (a :: b :: c :: bs)) s = performAll (rxBytes bs) (s.setRx { s.rx with
      hdr := { s.rx.hdr with version := a, msgType := b, lenHi := c }
      crc := crcFold s.cfg s.rx.crc [a, b, c]
      idx := 3#16 }) := by
  refine (performAll_rxBytes_cons (rxStep_header_of_le_two hs (by simp [hi]))).trans ?_
  refine (performAll_rxBytes_cons (s := s.setRx _) (rxStep_header_of_le_two (by exact hs) (by simp [hi]))).trans ?_
  refine (performAll_rxBytes_cons (s := s.setRx _) (rxStep_header_of_le_two (by exact hs) (by simp [hi]))).trans ?_
  simp [hi, Header.put, crcFold, State.setRx]

/-- The unit right after the header `h` of a frame that fits the buffer (R165). -/
def afterHeader (cfg : Cfg) (h : Header) (u : RxUnit) : RxUnit :=
  { u with
    state := if be16 h.lenHi h.lenLo = 0#16 then .trailer else .payload
    idx := 0#16
    hdr := h
    len := be16 h.lenHi h.lenLo
    crc := crc16 cfg h.bytes }

theorem received_afterHeader (cfg : Cfg) (h : Header) (u : RxUnit) : Received cfg h [] (afterHeader cfg h u) := by
  refine ⟨⟨rfl, rfl, rfl, by simp [afterHeader, crcBody, Header.bytes]⟩, fun howed => ?_, fun hnone => ?_⟩
  · have hne : be16 h.lenHi h.lenLo ≠ 0#16 := fun h0 => by simp [afterHeader, h0] at howed
    simp [afterHeader, hne]
  · have h0 : be16 h.lenHi h.lenLo = 0#16 := BitVec.eq_of_toNat_eq hnone.symm
    simp [afterHeader, h0]

/-- Sync bytes and header, from `SEEK_SYNC0`: no outcome (R161 to R165). -/
theorem performAll_header {h : Header} {s : State} (hs : s.rx.state = .seekSync0)
    (hcap : (be16 h.lenHi h.lenLo).toNat ≤ s.cfg.payloadCap) :
    performAll (rxBytes ([s.cfg.sync0, s.cfg.sync1] ++ h.bytes)) s = .next (s.setRx (afterHeader s.cfg h s.rx)) := by
  refine (performAll_rxBytes_cons (rxStep_seekSync0_sync0 hs)).trans ?_
  refine (performAll_rxBytes_cons (s := s.setRx _) (rxStep_seekSync1_sync1 rfl)).trans ?_
  refine (performAll_three_header_bytes rfl rfl ..).trans ?_
  refine (performAll_rxBytes_cons (u := afterHeader s.cfg h s.rx) ?_).trans rfl
  have hfits : ¬ s.cfg.payloadCap < (be16 h.lenHi h.lenLo).toNat := Nat.not_lt.2 hcap
  have hcrc : crc16 s.cfg h.bytes =
      crcStep s.cfg (crcFold s.cfg s.cfg.crcInit [h.version, h.msgType, h.lenHi]) h.lenLo := rfl
  rw [rxStep_header_last rfl rfl]
  by_cases h0 : be16 h.lenHi h.lenLo = 0#16
  · simp [rxHeaderComplete, afterHeader, hcrc, h0]
  · simp [rxHeaderComplete, afterHeader, hcrc, hfits, h0]

/-- A payload byte that is owed comes into the buffer. -/
theorem Received.rxStep {cfg : Cfg} {h : Header} {q : List Byte} {u : RxUnit} (hu : Received cfg h q u) (b : Byte)
    (howed : q.length < u.len.toNat) (hcap : u.len.toNat ≤ cfg.payloadCap) :
    ∃ v, rxStep cfg b u = .ok (v, none) ∧ Received cfg h (q ++ [b]) v := by
  obtain ⟨hst, hidx⟩ := hu.owed howed
  have hcell : u.idx.toNat < cfg.payloadCap := by omega
  have hsucc : (u.idx + 1#16).toNat = q.length + 1 := by bv_omega
  refine ⟨_, rxStep_payload hst (by omega) hcell, ⟨hu.hdr, hu.len, ?_, ?_⟩, fun hlt => ?_, fun heq => ?_⟩
  · rw [List.length_append, List.length_singleton, ← hidx]
    refine (bufPayload_succ_of_bufPut (u := u) (b := b) hcell (by rfl) (by rfl)).trans ?_
    rw [hidx, hu.buffer]
  · show crcStep cfg u.crc b = _
    rw [hu.crc, ← crc16_concat, crcBody_concat]
  · have hne : ¬ u.idx + 1#16 = u.len := fun he => by simp [← he, hsucc] at hlt
    simp [hne, hsucc]
  · have hlast : u.idx + 1#16 = u.len := by simp at heq; bv_omega
    simp [hlast]

theorem performAll_payload {h : Header} {r q : List Byte} {s : State} (hs : Received s.cfg h q s.rx)
    (hlen : q.length + r.length ≤ s.rx.len.toNat) (hcap : s.rx.len.toNat ≤ s.cfg.payloadCap) :
    ∃ u, performAll (rxBytes r) s = .next (s.setRx u) ∧ Received s.cfg h (q ++ r) u := by
  induction r generalizing q s with
  | nil => exact ⟨s.rx, rfl, by simpa using hs⟩
  | cons b r ih =>
    rw [List.length_cons] at hlen
    obtain ⟨v, hstep, hv⟩ := hs.rxStep b (by omega) hcap
    have hkeep : v.len = s.rx.len := hv.len.trans hs.len.symm
    obtain ⟨u, hrun, hu⟩ := ih (q := q ++ [b]) (s := s.setRx v) hv (by simp [hkeep]; omega) (by simpa [hkeep] using hcap)
    exact ⟨u, (performAll_rxBytes_cons hstep).trans hrun, by simpa using hu⟩

/-! ## A whole frame -/

/-- All of a frame but its last byte, from `SEEK_SYNC0`: no outcome, and the unit holds the frame and the first trailer
byte. -/
theorem performAll_frame_but_last {h : Header} {p : List Byte} {s : State} (t0 : Byte) (hs : s.rx.state = .seekSync0)
    (hlen : (be16 h.lenHi h.lenLo).toNat = p.length) (hcap : p.length ≤ s.cfg.payloadCap) :
    ∃ v, performAll (rxBytes ([s.cfg.sync0, s.cfg.sync1] ++ crcBody h p ++ [t0])) s = .next (s.setRx v) ∧
      v.state = .trailer ∧ v.idx = 1#16 ∧ v.trlHi = t0 ∧ HoldsFrame s.cfg h p v := by
  have hu := received_afterHeader s.cfg h s.rx
  have hhead := performAll_header hs (hlen.trans_le hcap)
  obtain ⟨v, hpay, hv⟩ := performAll_payload (r := p) (s := s.setRx (afterHeader s.cfg h s.rx)) hu
    (by simp [hu.len, hlen]) (by simpa [hu.len, hlen] using hcap)
  rw [List.nil_append] at hv
  obtain ⟨hst, hidx⟩ := hv.complete (by rw [hv.len, hlen])
  have hsplit : [s.cfg.sync0, s.cfg.sync1] ++ crcBody h p ++ [t0] =
      [s.cfg.sync0, s.cfg.sync1] ++ h.bytes ++ (p ++ [t0]) := by
    simp [crcBody, Header.bytes]
  refine ⟨{ v with trlHi := t0, idx := 1#16 }, ?_, hst, rfl, rfl, hv.hdr, hv.len, ?_, hv.crc⟩
  · rw [hsplit, rxBytes_append, performAll_append, hhead, andThen_next, rxBytes_append, performAll_append, hpay,
      andThen_next, performAll_rxBytes_cons (rxStep_trailer_first hst hidx)]
    rfl
  · exact (bufPayload_congr _ rfl rfl).trans hv.buffer

/-- The last trailer byte of a frame gives the verdict on its CRC, with what the unit holds (R173, R174). -/
theorem outcomeEvent_rxVerify {cfg : Cfg} {h : Header} {p : List Byte} {v : RxUnit} (hv : HoldsFrame cfg h p v)
    (hlen : (be16 h.lenHi h.lenLo).toNat = p.length) (t1 : Byte) :
    outcomeEvent cfg (rxVerify t1 v) v =
      if be16 v.trlHi t1 = crc16 cfg (crcBody h p) then .rxFrameOk h.version h.msgType p
      else .rxCrcErr h.version h.msgType (be16 h.lenHi h.lenLo) (be16 v.trlHi t1) (crc16 cfg (crcBody h p)) := by
  unfold rxVerify
  rw [← hv.crc]
  by_cases hx : be16 v.trlHi t1 = v.crc
  · simp [outcomeEvent, hx, hv.hdr, hv.len, hlen, hv.buffer]
  · simp [outcomeEvent, hx, hv.hdr, hv.len]

end Sys2Proof.Machine
end

section
/-! SUPPORT. What one clock cycle does, as its TX and its RX event on the state before the edge (30_encoding.md R110 to
R116, R273). -/

namespace Sys2Proof.Machine

/-! ## The TX and the RX event of a cycle -/

@[simp] theorem newEvents_self (s : State) : newEvents s s = [] := by
  simp [newEvents]

theorem performAll_singleton (i : Instr) (s : State) : performAll [i] s = exec i s := by
  rw [performAll_cons]
  cases exec i s <;> rfl

theorem txEvents_eq_nil_or (p : PortIn) (s : State) : txEvents p s = [] ∨ ∃ i, i.unit = .tx ∧ txEvents p s = [i] := by
  rcases txEvents_cases p s with ⟨-, -, h⟩ | ⟨-, -, h⟩ | ⟨-, -, h⟩
  · exact .inr ⟨_, rfl, h⟩
  · exact .inr ⟨_, rfl, h⟩
  · exact .inl h

theorem rxEvents_eq_nil_or (p : PortIn) : rxEvents p = [] ∨ ∃ i, i.unit = .rx ∧ rxEvents p = [i] := by
  rcases rxEvents_cases p with ⟨-, h⟩ | ⟨-, -, h⟩ | ⟨-, -, h⟩
  · exact .inr ⟨_, rfl, h⟩
  · exact .inr ⟨_, rfl, h⟩
  · exact .inl h

/-- A completed start handshake is a `TX_START`, and no byte is passed beside it (R112, R232). -/
theorem txEvents_of_start {p : PortIn} {s : State} (hv : p.txStartValid = true) (hr : txStartReady p s = true) :
    txEvents p s = [.txStart p.txType p.txLen] := by
  simp [txEvents, eventWhen, txPlReady, hv, hr]

/-- A completed byte handshake is a `TX_BYTE`, for there is no start request (R112). -/
theorem txEvents_of_byte {p : PortIn} {s : State} (hv : p.txPlValid = true) (hr : txPlReady p s = true) :
    txEvents p s = [.txByte p.txPlData] := by
  have hno : p.txStartValid = false := by
    simp only [txPlReady, Bool.and_eq_true, Bool.not_eq_true'] at hr
    exact hr.2
  simp [txEvents, eventWhen, hv, hr, hno]

theorem txEvents_of_none {p : PortIn} {s : State} (hs : (p.txStartValid && txStartReady p s) = false)
    (hb : (p.txPlValid && txPlReady p s) = false) : txEvents p s = [] := by
  simp [txEvents, eventWhen, hs, hb]

/-- The TX event of a cycle, on a state that agrees with `s` in what it reads, has the effect it has on `s`. -/
theorem performAll_txEvents_local {p : PortIn} {s s' v : State} (hc : s'.cfg = s.cfg) (ht : s'.tx = s.tx)
    (h : performAll (txEvents p s) s' = .next v) :
    ∃ a, performAll (txEvents p s) s = .next a ∧
      v = { s' with tx := a.tx, trace := s'.trace ++ newEvents s a,
                    usage := if (newEvents s a).any OutEvent.isUsageErr then a.usage else s'.usage } ∧
      ∀ e ∈ newEvents s a, e.isRxOutcome = false := by
  rcases txEvents_eq_nil_or p s with hi | ⟨i, hu, hi⟩ <;> rw [hi] at h ⊢
  · cases h
    exact ⟨s, rfl, by simp [← ht], by simp⟩
  · rw [performAll_singleton] at h ⊢
    exact exec_tx_local hu hc ht h

/-- The RX event of a cycle, on a state that agrees with `s` in what it reads, has the effect it has on `s`. -/
theorem performAll_rxEvents_local {p : PortIn} {s s' v : State} (hc : s'.cfg = s.cfg) (hx : s'.rx = s.rx)
    (hr : s'.res = s.res) (h : performAll (rxEvents p) s' = .next v) :
    ∃ b, performAll (rxEvents p) s = .next b ∧
      v = { s' with rx := b.rx, res := b.res, trace := s'.trace ++ newEvents s b } ∧
      (∀ e ∈ newEvents s b, e.isRxOutcome = true) ∧ (newEvents s b).length ≤ 1 := by
  rcases rxEvents_eq_nil_or p with hi | ⟨i, hu, hi⟩ <;> rw [hi] at h ⊢
  · cases h
    exact ⟨s, rfl, by simp [← hx, ← hr], by simp, by simp⟩
  · rw [performAll_singleton] at h ⊢
    exact exec_rx_local hu hc hx hr h

/-! ## The bytes a cycle emits -/

/-- `TX_START` emits at most eight bytes: sync bytes, header and the trailer of an empty frame (R140). -/
theorem exec_txStart_out {t : Byte} {n : Half} {s u : State} (h : exec (.txStart t n) s = .next u) :
    ∃ q, u.tx.out = s.tx.out ++ q ∧ q.length ≤ 8 := by
  rcases exec_txStart_cases h with ⟨-, rfl⟩ | ⟨-, rfl⟩
  · exact ⟨[], by simp, by simp⟩
  · refine ⟨_, congrArg (·.tx.out) (txOpen_eq t n s), ?_⟩
    by_cases hn : n = 0#16 <;> simp [hn, txHeader, crcBytes]

/-- `TX_BYTE` emits at most three bytes: the payload byte, and the trailer after the last (R142). -/
theorem exec_txByte_out {b : Byte} {s u : State} (h : exec (.txByte b) s = .next u) :
    ∃ q, u.tx.out = s.tx.out ++ q ∧ q.length ≤ 3 := by
  rcases exec_txByte_cases h with ⟨-, rfl⟩ | ⟨-, -, rfl⟩
  · exact ⟨[], by simp, by simp⟩
  · refine ⟨_, congrArg (·.tx.out) (txPass_eq b s), ?_⟩
    split <;> simp [crcBytes]

theorem txStartReady_eq_true_iff {p : PortIn} {s : State} :
    txStartReady p s = true ↔ p.rst = false ∧ s.port.txq.length + 8 ≤ s.cfg.txqDepth := by
  have hfree : 8 ≤ txqFree s ↔ s.port.txq.length + 8 ≤ s.cfg.txqDepth := by unfold txqFree; omega
  simp [txStartReady, hfree]

theorem txPlReady_eq_true_iff {p : PortIn} {s : State} :
    txPlReady p s = true ↔ p.rst = false ∧ s.port.txq.length + 3 ≤ s.cfg.txqDepth ∧ p.txStartValid = false := by
  have hfree : 3 ≤ txqFree s ↔ s.port.txq.length + 3 ≤ s.cfg.txqDepth := by unfold txqFree; omega
  simp [txPlReady, hfree, and_assoc]

/-- The TX event of a cycle only adds to `tx_out`, and what it adds fits the queue beside what waits there (R112). -/
theorem performAll_txEvents_out {p : PortIn} {s a : State} (h : performAll (txEvents p s) s = .next a) :
    ∃ q, a.tx.out = s.tx.out ++ q ∧
      (s.port.txq.length ≤ s.cfg.txqDepth → s.port.txq.length + q.length ≤ s.cfg.txqDepth) ∧
      (txEvents p s = [] → q = []) := by
  rcases txEvents_cases p s with ⟨-, hr, hi⟩ | ⟨-, hr, hi⟩ | ⟨-, -, hi⟩ <;> rw [hi] at h ⊢
  · obtain ⟨q, hq, hlen⟩ := exec_txStart_out (performAll_singleton .. ▸ h)
    obtain ⟨-, hfree⟩ := txStartReady_eq_true_iff.1 hr
    exact ⟨q, hq, fun _ => by omega, by simp⟩
  · obtain ⟨q, hq, hlen⟩ := exec_txByte_out (performAll_singleton .. ▸ h)
    obtain ⟨-, hfree, -⟩ := txPlReady_eq_true_iff.1 hr
    exact ⟨q, hq, fun _ => by omega, by simp⟩
  · cases h
    exact ⟨[], by simp, by simp, by simp⟩

/-- The usage errors of a TX event are `UC_TX_BUSY` and `UC_TX_IDLE` (R141, R143). -/
theorem exec_tx_usage_code {i : Instr} (hi : i.unit = .tx) {s u : State} (h : exec i s = .next u) {w : EventWord}
    {c : UsageCode} (hev : .usageErr w c ∈ newEvents s u) : c = .txBusy ∨ c = .txIdle := by
  cases i <;> simp only [Instr.unit, reduceCtorEq] at hi
  case txStart t n =>
    rcases exec_txStart_cases h with ⟨-, rfl⟩ | ⟨-, rfl⟩
    · rw [newEvents_of_trace (raiseUsage_trace ..)] at hev
      cases List.mem_singleton.1 hev
      exact .inl rfl
    · rw [newEvents_of_trace (by rw [txOpen_eq])] at hev
      cases txBytes_isUsageErr hev
  case txByte b =>
    rcases exec_txByte_cases h with ⟨-, rfl⟩ | ⟨-, -, rfl⟩
    · rw [newEvents_of_trace (raiseUsage_trace ..)] at hev
      cases List.mem_singleton.1 hev
      exact .inr rfl
    · rw [newEvents_of_trace (by rw [txPass_eq])] at hev
      cases txBytes_isUsageErr hev

theorem performAll_txEvents_usage_code {p : PortIn} {s a : State} (h : performAll (txEvents p s) s = .next a)
    {w : EventWord} {c : UsageCode} (hev : .usageErr w c ∈ newEvents s a) : c = .txBusy ∨ c = .txIdle := by
  rcases txEvents_eq_nil_or p s with hi | ⟨i, hu, hi⟩ <;> rw [hi] at h
  · cases h
    rw [newEvents_self] at hev
    cases hev
  · exact exec_tx_usage_code hu (performAll_singleton .. ▸ h) hev

/-! ## A whole cycle -/

/-- What a cycle without reset leaves: `a` is the state its TX event leaves from `s`, `b` the one its RX event leaves from
`s`, and `l` what is still to come. -/
def afterCycle (p : PortIn) (s a b : State) (l : List Input) : State :=
  { afterControls p s with
    tx := a.tx
    rx := b.rx
    res := b.res
    usage := if (newEvents s a).any OutEvent.isUsageErr then a.usage else (afterControls p s).usage
    trace := s.trace ++ (newEvents s a ++ newEvents s b)
    port := edgePorts p s { s with tx := a.tx, trace := s.trace ++ (newEvents s a ++ newEvents s b) }
    input := l
    draws := s.draws + 1 }

/-- `a` and `b` are the states the TX and the RX event of a cycle leave, each from the state before the edge. -/
structure CycleEvents (p : PortIn) (s a b : State) : Prop where
  tx : performAll (txEvents p s) s = .next a
  rx : performAll (rxEvents p) s = .next b
  noOutcome : ∀ e ∈ newEvents s a, e.isRxOutcome = false
  outcome : ∀ e ∈ newEvents s b, e.isRxOutcome = true
  once : (newEvents s b).length ≤ 1

/-- A cycle without reset performs its TX and its RX event, each as on the state before the edge. -/
theorem eventEdge_eq_afterCycle {p : PortIn} {s t : State} {l : List Input}
    (h : eventEdge p (s.setInput l) = .next t) : ∃ a b, CycleEvents p s a b ∧ t = afterCycle p s a b l := by
  obtain ⟨u, hu, rfl⟩ := eventEdge_eq_next.1 h
  obtain ⟨v, hv, hu⟩ := performAll_portEvents_eq_next.1 hu
  obtain ⟨a, ha, rfl, hno⟩ := performAll_txEvents_local (s := s) (by rfl) (by rfl) hv
  obtain ⟨b, hb, rfl, hout, honce⟩ := performAll_rxEvents_local (s := s) (by rfl) (by rfl) (by rfl) hu
  refine ⟨a, b, ⟨ha, hb, hno, hout, honce⟩, ?_⟩
  simp only [List.append_assoc]
  rfl

/-- A cycle with reset, under a configuration the model accepts, is a reset edge (R250). -/
theorem step_withCycle_of_rst {p : PortIn} {s t : State} (hr : p.rst = true) (h : step (s.withCycle p) = .next t) :
    t = resetEdge (s.setInput []) := by
  obtain ⟨-, ⟨hi, -⟩ | ⟨w, rest, hi, -⟩ | ⟨q, rest, hi, -, rfl⟩ | ⟨q, rest, hi, hq, -⟩⟩ := step_eq_next h <;> cases hi
  · rfl
  · cases hr.symm.trans hq

/-- A cycle without reset, alone as input, performs its TX and its RX event, each as on the state before the edge. -/
theorem step_withCycle_eq_next {p : PortIn} {s t : State} (hr : p.rst = false) (h : step (s.withCycle p) = .next t) :
    ∃ a b, CycleEvents p s a b ∧ t = afterCycle p s a b [] := by
  obtain ⟨-, -, v, u, hv, hu, rfl⟩ := (cycle_eq_next hr).1 h
  exact eventEdge_eq_afterCycle
    (eventEdge_eq_next.2 ⟨u, performAll_portEvents_eq_next.2 ⟨v, hv, hu⟩, rfl⟩)

section
variable {p : PortIn} {s a b : State} (l : List Input) (h : CycleEvents p s a b)

theorem newEvents_afterCycle : newEvents s (afterCycle p s a b l) = newEvents s a ++ newEvents s b :=
  newEvents_of_trace rfl

include h

/-- The RX outcomes of a cycle are the outputs of its RX event. -/
theorem CycleEvents.filter_isRxOutcome :
    (newEvents s (afterCycle p s a b l)).filter OutEvent.isRxOutcome = newEvents s b := by
  rw [newEvents_afterCycle, List.filter_append, List.filter_eq_nil_iff.2 (by simpa using h.noOutcome),
    List.filter_eq_self.2 h.outcome, List.nil_append]

/-- The other outputs of a cycle are those of its TX event. -/
theorem CycleEvents.filter_not_isRxOutcome :
    (newEvents s (afterCycle p s a b l)).filter (fun e => !e.isRxOutcome) = newEvents s a := by
  rw [newEvents_afterCycle, List.filter_append, List.filter_eq_self.2 (by simpa using h.noOutcome),
    List.filter_eq_nil_iff.2 (by simpa using h.outcome), List.append_nil]

/-- `rx_done` is 1 exactly if the cycle recorded an outcome (R115). -/
theorem CycleEvents.rxDone : (afterCycle p s a b l).port.rxDone = !(newEvents s b).isEmpty := by
  show (newEvents s (afterCycle p s a b l)).any OutEvent.isRxOutcome = _
  rw [newEvents_afterCycle, List.any_append, List.any_eq_false.2 (by simpa using h.noOutcome), Bool.false_or]
  cases hb : newEvents s b with
  | nil => rfl
  | cons e l => simp [h.outcome e (by simp [hb])]

/-- The queue over a cycle: the bytes the TX event emits join at its end, what the transport takes leaves at its front
(R112, R272). -/
theorem CycleEvents.queue : ∃ q, (afterCycle p s a b l).tx.out = s.tx.out ++ q ∧
    (afterCycle p s a b l).port.txq = s.port.txq.drop (if p.txoReady then 1 else 0) ++ q ∧
    (s.port.txq.length ≤ s.cfg.txqDepth → s.port.txq.length + q.length ≤ s.cfg.txqDepth) ∧
    (txEvents p s = [] → q = []) := by
  obtain ⟨q, hq, hfits, hnone⟩ := performAll_txEvents_out h.tx
  refine ⟨q, hq, ?_, hfits, hnone⟩
  show _ ++ a.tx.out.drop s.tx.out.length = _
  rw [hq, List.drop_left]

end

/-- A cycle without reset keeps the queue carrying `tx_out` (R112). -/
theorem CycleEvents.keeps_queue {p : PortIn} {s a b : State} {l : List Input} (h : CycleEvents p s a b)
    (hl : ∀ x ∈ l, ∃ p, x = .cycle p) (hs : QueueCarriesTxOut s) : QueueCarriesTxOut (afterCycle p s a b l) := by
  obtain ⟨q, hout, htxq, hfits, -⟩ := h.queue l
  refine ⟨hl, ?_, ?_⟩
  · have hroom := hfits hs.fits
    rw [htxq, List.length_append, List.length_drop]
    show _ ≤ s.cfg.txqDepth
    omega
  · rw [hout, htxq]
    show _ <:+ s.port.txoTaken ++ s.port.txq.take _ ++ _
    rw [← List.append_assoc, List.append_assoc s.port.txoTaken, List.take_append_drop]
    obtain ⟨sent, hsent⟩ := hs.carries
    exact ⟨sent, by rw [← List.append_assoc, hsent]⟩

/-- A reset empties `tx_out` and the queue (R250). -/
theorem queueCarriesTxOut_resetEdge {s : State} (h : ∀ x ∈ s.input, ∃ p, x = .cycle p) : QueueCarriesTxOut (resetEdge s) :=
  ⟨h, Nat.zero_le _, List.nil_suffix⟩

end Sys2Proof.Machine
end

section
/-! The statements of 30_encoding.md. -/

namespace Sys2Proof.Machine

/-- Settles O1, event by event; `TX_START`'s word by its four fields. -/
theorem decodeOfEncodeIsTheEvent : Obligations.DecodeOfEncodeIsTheEvent := by
  unfold Obligations.DecodeOfEncodeIsTheEvent
  exact decode_encode

/-- Settles O2: the fields of an accepted word put together again are the word. -/
theorem encodeOfDecodeIsTheWord : Obligations.EncodeOfDecodeIsTheWord := by
  unfold Obligations.EncodeOfDecodeIsTheWord
  exact fun _ _ => encode_of_decode

/-- Settles O3: a row's words are those of the events with its mnemonic, and no mnemonic has two rows. -/
theorem opcodeMapIsCompleteAndDisjoint : Obligations.OpcodeMapIsCompleteAndDisjoint := by
  unfold Obligations.OpcodeMapIsCompleteAndDisjoint
  refine ⟨fun r hr => matchesWord_iff hr, fun w hno => ?_, ?_⟩
  · cases hd : decode w with
    | malformed why => exact ⟨why, rfl⟩
    | event i =>
      obtain ⟨r, hr, -, hmatch⟩ := encode_matches_its_row i
      rw [encode_of_decode hd] at hmatch
      exact absurd hmatch (hno r hr)
  · refine opcodeMap_mnemonics_differ.imp_of_mem fun hr hq hne w hboth => hne ?_
    obtain ⟨i, hi, hir⟩ := (matchesWord_iff hr w).1 hboth.1
    obtain ⟨j, hj, hjq⟩ := (matchesWord_iff hq w).1 hboth.2
    cases hi.symm.trans hj
    exact hir.symm.trans hjq

/-- Settles O4: a word that decodes is its `OP`, its zeros and its operands side by side. -/
theorem operandsAreTheWordsFields : Obligations.OperandsAreTheWordsFields := by
  unfold Obligations.OperandsAreTheWordsFields
  intro w
  constructor
  · intro b hd k hk
    have hw : ∃ op : BitVec 4, op ++ 0#20 ++ b = w := by
      rcases hd with hd | hd | hd
      · exact ⟨_, (encode_crcByte_eq_append b).symm.trans (encode_of_decode hd)⟩
      · exact ⟨_, (encode_txByte_eq_append b).symm.trans (encode_of_decode hd)⟩
      · exact ⟨_, (encode_rxByte_eq_append b).symm.trans (encode_of_decode hd)⟩
    obtain ⟨op, rfl⟩ := hw
    rw [BitVec.getLsbD_append, if_pos hk]
  · intro t n hd
    obtain rfl : _ = w := (encode_txStart_eq_append t n).symm.trans (encode_of_decode hd)
    refine ⟨fun k hk => ?_, fun k hk => ?_⟩
    · rw [BitVec.getLsbD_append, if_neg (by omega), BitVec.getLsbD_append, if_pos (by omega), Nat.add_sub_cancel_left]
    · rw [BitVec.getLsbD_append, if_pos hk]

/-- Settles O5: the eight words of events are their encodings; the other four are evaluated. -/
theorem sampleWordsDecode : Obligations.SampleWordsDecode := by
  unfold Obligations.SampleWordsDecode
  refine ⟨decode_encode .nop, decode_encode .crcInit, decode_encode (.crcByte 0x31),
    decode_encode (.txStart 0x04 0xFFFF), decode_encode (.txByte 0xAA), decode_encode (.rxByte 0x55),
    decode_encode .rxTimeout, decode_encode .errClr, ?_, ?_, ?_, ?_⟩
  all_goals decide

/-- Settles O28: stage by stage the unit takes the frame without an outcome, and the last byte's outcome is the verdict on
what it holds. -/
theorem decoderClosedForm : Obligations.DecoderClosedForm := by
  unfold Obligations.DecoderClosedForm
  intro h p t0 t1 s hs hlen hcap
  obtain ⟨v, hrun, hst, hidx, rfl, hv⟩ := performAll_frame_but_last t0 hs hlen hcap
  have hframe : wireFrame s.cfg h p v.trlHi t1 = [s.cfg.sync0, s.cfg.sync1] ++ crcBody h p ++ [v.trlHi] ++ [t1] := by
    simp [wireFrame]
  have hall : performAll (rxBytes (wireFrame s.cfg h p v.trlHi t1)) s =
      .next (takeOutcome (rxVerify t1 v) (s.setRx v)) := by
    rw [hframe, rxBytes_append, performAll_append, hrun]
    exact (performAll_singleton ..).trans (exec_rxByte_of_ok (rxStep_trailer_second hst hidx))
  refine ⟨fun k hk => ?_, _, hall, ?_, rfl, rfl, fun i hi => ?_⟩
  · rw [hframe, List.length_append, List.length_singleton] at hk
    rw [hframe, List.take_append_of_le_length (by omega)]
    rw [← List.take_append_drop k (_ ++ [v.trlHi]), rxBytes_append] at hrun
    exact performAll_quiet_of_append hrun rfl
  · exact congrArg (s.trace ++ [·]) (outcomeEvent_rxVerify hv hlen t1)
  · calc bufRead s.cfg { v with state := .seekSync0, idx := 0#16 } i
      _ = bufRead s.cfg v i := bufRead_congr i rfl rfl
      _ = (bufPayload s.cfg v p.length)[i]'(by simpa [bufPayload] using hi) := by simp [bufPayload]
      _ = p[i] := by simp only [hv.buffer]

/-- Settles O55: a cycle puts what it adds to `tx_out` at the queue's end and moves the byte taken from its front to the record
of taken bytes; a handshake waits for room. -/
theorem stepKeepsTheQueueCarryingTxOut : Obligations.StepKeepsTheQueueCarryingTxOut := by
  unfold Obligations.StepKeepsTheQueueCarryingTxOut
  intro s t hs h
  have hrest {x : Input} {rest : List Input} (hi : s.input = x :: rest) : ∀ y ∈ rest, ∃ p, y = .cycle p :=
    fun y hy => hs.cycles y (hi ▸ List.mem_cons_of_mem x hy)
  obtain ⟨-, ⟨-, -, rfl⟩ | ⟨w, rest, hi, -⟩ | ⟨p, rest, hi, -, rfl⟩ | ⟨p, rest, hi, -, -, hp⟩⟩ := step_eq_next h
  · exact hs
  · obtain ⟨p, hp⟩ := hs.cycles (.word w) (hi ▸ List.mem_cons_self)
    cases hp
  · exact queueCarriesTxOut_resetEdge (hrest hi)
  · obtain ⟨a, b, hev, rfl⟩ := eventEdge_eq_afterCycle hp
    exact hev.keeps_queue (hrest hi) hs

/-- Settles O56: a cycle has at most one RX event, and that reports at most one outcome. -/
theorem rxDonePulsesOncePerOutcome : Obligations.RxDonePulsesOncePerOutcome := by
  unfold Obligations.RxDonePulsesOncePerOutcome
  intro s t p hr h
  obtain ⟨a, b, hev, rfl⟩ := step_withCycle_eq_next hr h
  have honce := hev.once
  rw [hev.filter_isRxOutcome, hev.rxDone]
  cases hb : newEvents s b with
  | nil => rfl
  | cons e l => simpa [hb] using honce

/-- Settles O57: the edge loads the port from the state before it. -/
theorem readPortShowsTheBufferBeforeTheEdge : Obligations.ReadPortShowsTheBufferBeforeTheEdge := by
  unfold Obligations.ReadPortShowsTheBufferBeforeTheEdge
  intro s t p hr h
  obtain ⟨a, b, -, rfl⟩ := step_withCycle_eq_next hr h
  rfl

/-- Settles O58: a cycle's usage errors come from its TX event; a reset edge reports nothing. -/
theorem portsNeverReportMalformed : Obligations.PortsNeverReportMalformed := by
  unfold Obligations.PortsNeverReportMalformed
  intro s t p h w c hev
  cases hr : p.rst with
  | true =>
    have hnone : newEvents s (resetEdge (s.setInput [])) = [] := newEvents_self s
    rw [step_withCycle_of_rst hr h, hnone] at hev
    cases hev
  | false =>
    obtain ⟨a, b, hab, rfl⟩ := step_withCycle_eq_next hr h
    rw [newEvents_afterCycle, List.mem_append] at hev
    rcases hev with hev | hev
    · exact performAll_txEvents_usage_code hab.tx hev
    · cases hab.outcome _ hev

/-- Settles O54: a cycle's TX unit and outputs other than outcomes are those of its TX event on the state before the edge. -/
theorem txHandshakeNeedsReady : Obligations.TxHandshakeNeedsReady := by
  unfold Obligations.TxHandshakeNeedsReady
  intro s p
  refine ⟨txStartReady_eq_true_iff, txPlReady_eq_true_iff, fun t hr h => ?_⟩
  obtain ⟨a, b, hev, rfl⟩ := step_withCycle_eq_next hr h
  rw [hev.filter_not_isRxOutcome]
  have htx := hev.tx
  refine ⟨fun hv hready => ?_, fun hv hready => ?_, fun hs hb => ?_⟩
  · rw [txEvents_of_start hv hready, performAll_singleton] at htx
    exact ⟨a, htx, rfl, rfl⟩
  · rw [txEvents_of_byte hv hready, performAll_singleton] at htx
    exact ⟨a, htx, rfl, rfl⟩
  · rw [txEvents_of_none hs hb] at htx
    cases htx
    exact ⟨rfl, by simp [afterCycle, afterControls], newEvents_self s⟩

/-- Settles O60, from what a cycle does to the queue and to the record of taken bytes. -/
theorem txQueueDrainsOldestFirst : Obligations.TxQueueDrainsOldestFirst := by
  unfold Obligations.TxQueueDrainsOldestFirst
  intro s p
  refine ⟨?_, ?_, ?_, fun t hr h => ?_⟩
  · simp [portOut]
  · intro b rest hq
    simp [portOut, txoData, hq]
  · simp [portOut, txBusyPort, txBusy]
  · obtain ⟨a, b, hev, rfl⟩ := step_withCycle_eq_next hr h
    obtain ⟨q, hout, htxq, -, hnone⟩ := hev.queue []
    have htaken : (afterCycle p s a b []).port.txoTaken =
      s.port.txoTaken ++ s.port.txq.take (if p.txoReady then 1 else 0) := rfl
    refine ⟨q, hout, ?_, ?_, ?_, fun hs hb => hnone (txEvents_of_none hs hb)⟩
    · intro hready
      simp [htxq, htaken, hready]
    · intro hready c rest hq
      simp [htxq, htaken, hready, hq]
    · intro hready hq
      simp [htxq, htaken, hready, hq]

end Sys2Proof.Machine
end

section
/-! SUPPORT. The algebra of the CRC (40_crc.md R120 to R122): the iterations of R120 are linear, and one-to-one when bit 0 of
the polynomial is set. -/

namespace Sys2Proof.Machine

/-! ## Two bytes as one value -/

theorem be16_xor (a b c d : Byte) : be16 a b ^^^ be16 c d = be16 (a ^^^ c) (b ^^^ d) := BitVec.xor_append

theorem setWidth_shiftLeft_eq_be16 (b : Byte) : b.setWidth 16 <<< 8 = be16 b 0#8 := by
  apply BitVec.eq_of_toNat_eq
  rw [be16_toNat, BitVec.toNat_shiftLeft, BitVec.toNat_setWidth, Nat.shiftLeft_eq, BitVec.toNat_ofNat]
  omega

theorem shiftLeft_eight_eq_be16 (c : Half) : c <<< 8 = be16 (lo8 c) 0#8 := by
  apply BitVec.eq_of_toNat_eq
  rw [be16_toNat, lo8_toNat, BitVec.toNat_shiftLeft, Nat.shiftLeft_eq, BitVec.toNat_ofNat]
  omega

/-! ## One flipped bit -/

theorem xor_one_shiftLeft_ne {k : Nat} (hk : k < 8) (b : Byte) : b ^^^ (1#8 <<< k) ≠ b := by
  intro h
  have hbit := congrArg (·.getLsbD k) h
  simp [hk] at hbit

/-! ## One iteration -/

section
variable {poly : Half}

@[simp] theorem crcShift_zero : crcShift poly 0#16 = 0#16 := rfl

theorem crcShift_of_msb_false {c : Half} (h : c.msb = false) : crcShift poly c = c <<< 1 := by
  simp [crcShift, h]

theorem crcShift_of_msb_true {c : Half} (h : c.msb = true) : crcShift poly c = (c <<< 1) ^^^ poly := by
  simp [crcShift, h]

/-- An iteration is linear: it adds the polynomial exactly when the bit shifted out is set. -/
theorem crcShift_xor (a b : Half) : crcShift poly (a ^^^ b) = crcShift poly a ^^^ crcShift poly b := by
  unfold crcShift
  rw [BitVec.msb_xor, BitVec.shiftLeft_xor_distrib]
  cases a.msb <;> cases b.msb <;> simp only [Bool.xor_false, Bool.xor_true, Bool.not_false, Bool.not_true, if_true,
    Bool.false_eq_true, if_false]
  · ac_rfl
  · ac_rfl
  · rw [BitVec.xor_assoc (a <<< 1), BitVec.xor_comm poly, BitVec.xor_assoc (b <<< 1), BitVec.xor_self, BitVec.xor_zero]

/-- With bit 0 of the polynomial set, bit 0 of the result tells whether the polynomial was added (R127). -/
theorem eq_zero_of_crcShift_eq_zero (hp : poly.getLsbD 0 = true) {c : Half} (h : crcShift poly c = 0#16) : c = 0#16 := by
  cases hm : c.msb with
  | true =>
    rw [crcShift_of_msb_true hm] at h
    have hbit : ((c <<< 1) ^^^ poly).getLsbD 0 = false := by rw [h]; rfl
    rw [BitVec.getLsbD_xor, hp] at hbit
    simp at hbit
  | false =>
    rw [crcShift_of_msb_false hm] at h
    rw [BitVec.msb_eq_false_iff_two_mul_lt] at hm
    bv_omega

theorem crcShift_injective (hp : poly.getLsbD 0 = true) : Function.Injective (crcShift poly) := by
  intro a b h
  rw [← BitVec.xor_eq_zero_iff] at h ⊢
  exact eq_zero_of_crcShift_eq_zero hp ((crcShift_xor a b).trans h)

/-! ## Several iterations -/

theorem crcShifts_eq_iterate (k : Nat) : crcShifts poly k = (crcShift poly)^[k] := by
  funext c
  induction k generalizing c with
  | zero => rfl
  | succ k ih => exact ih _

@[simp] theorem crcShifts_zero (k : Nat) : crcShifts poly k 0#16 = 0#16 := by
  rw [crcShifts_eq_iterate]
  exact Function.iterate_fixed crcShift_zero k

theorem crcShifts_xor (k : Nat) (a b : Half) : crcShifts poly k (a ^^^ b) = crcShifts poly k a ^^^ crcShifts poly k b := by
  induction k generalizing a b with
  | zero => rfl
  | succ k ih => exact (congrArg _ (crcShift_xor a b)).trans (ih _ _)

theorem crcShifts_injective (hp : poly.getLsbD 0 = true) (k : Nat) : Function.Injective (crcShifts poly k) := by
  rw [crcShifts_eq_iterate]
  exact (crcShift_injective hp).iterate k

/-- While the bits shifted out are 0, the iterations only shift. -/
theorem crcShifts_of_lt {k : Nat} {c : Half} (h : c.toNat * 2 ^ k < 2 ^ 16) : crcShifts poly k c = c <<< k := by
  induction k generalizing c with
  | zero => exact (BitVec.shiftLeft_zero c).symm
  | succ k ih =>
    rw [Nat.pow_succ', ← Nat.mul_assoc] at h
    have hlt : c.toNat * 2 < 2 ^ 16 := (Nat.le_mul_of_pos_right _ (Nat.two_pow_pos k)).trans_lt h
    have hmsb : c.msb = false := BitVec.msb_eq_false_iff_two_mul_lt.2 (by omega)
    have hdouble : (c <<< 1).toNat = c.toNat * 2 := by
      rw [BitVec.toNat_shiftLeft, Nat.shiftLeft_eq, Nat.pow_one, Nat.mod_eq_of_lt hlt]
    rw [crcShifts, crcShift_of_msb_false hmsb, ih (by rwa [hdouble]), Nat.add_comm, BitVec.shiftLeft_add]

/-- Eight iterations move the low byte to the high byte. -/
theorem crcShifts_eight_be16_zero (b : Byte) : crcShifts poly 8 (be16 0#8 b) = be16 b 0#8 := by
  have hb : (be16 0#8 b).toNat = b.toNat := by simp [be16_toNat]
  rw [crcShifts_of_lt (by omega), shiftLeft_eight_eq_be16]
  congr 1
  apply BitVec.eq_of_toNat_eq
  rw [lo8_toNat, hb]
  omega

end

/-! ## One byte, two bytes, a sequence -/

theorem crcStep_eq_crcShifts (cfg : Cfg) (c : Half) (b : Byte) :
    crcStep cfg c b = crcShifts cfg.crcPoly 8 (c ^^^ be16 b 0#8) := by
  rw [crcStep, setWidth_shiftLeft_eq_be16]

/-- The table form (R122): the low byte of the register is shifted up, and the high byte meets the byte stepped in. -/
theorem crcStep_eq_shift_xor_table (cfg : Cfg) (c : Half) (b : Byte) :
    crcStep cfg c b = (c <<< 8) ^^^ crcStep cfg 0#16 (hi8 c ^^^ b) := by
  have hsplit : c ^^^ be16 b 0#8 = be16 0#8 (lo8 c) ^^^ be16 (hi8 c ^^^ b) 0#8 := by
    rw [← be16_hi8_lo8 c, be16_xor, be16_xor, be16_hi8_lo8, BitVec.zero_xor, BitVec.xor_zero]
  rw [crcStep_eq_crcShifts, crcStep_eq_crcShifts, BitVec.zero_xor, hsplit, crcShifts_xor, crcShifts_eight_be16_zero,
    shiftLeft_eight_eq_be16]

/-- Two bytes stepped in are sixteen iterations over the register with both of them added. -/
theorem crcStep_crcStep (cfg : Cfg) (c : Half) (b₁ b₀ : Byte) :
    crcStep cfg (crcStep cfg c b₁) b₀ = crcShifts cfg.crcPoly 16 (c ^^^ be16 b₁ b₀) := by
  have hsplit : c ^^^ be16 b₁ b₀ = (c ^^^ be16 b₁ 0#8) ^^^ be16 0#8 b₀ := by
    rw [BitVec.xor_assoc, be16_xor, BitVec.xor_zero, BitVec.zero_xor]
  calc crcStep cfg (crcStep cfg c b₁) b₀
    _ = crcShifts cfg.crcPoly 8 (crcShifts cfg.crcPoly 8 (c ^^^ be16 b₁ 0#8) ^^^
          crcShifts cfg.crcPoly 8 (be16 0#8 b₀)) := by
      rw [crcStep_eq_crcShifts, crcStep_eq_crcShifts, crcShifts_eight_be16_zero]
    _ = crcShifts cfg.crcPoly 8 (crcShifts cfg.crcPoly 8 (c ^^^ be16 b₁ b₀)) := by rw [hsplit, crcShifts_xor _ (c ^^^ _)]
    _ = crcShifts cfg.crcPoly 16 (c ^^^ be16 b₁ b₀) := by
      simp only [crcShifts_eq_iterate, ← Function.iterate_add_apply, Nat.reduceAdd]

/-- The fold law (R122). -/
theorem crc16_append (cfg : Cfg) (a b : List Byte) : crc16 cfg (a ++ b) = crcFold cfg (crc16 cfg a) b :=
  List.foldl_append

/-- The residue law (R122): a value stepped over its own two bytes, high byte first, is 0. -/
theorem crcFold_own_bytes (cfg : Cfg) (c : Half) : crcFold cfg c [hi8 c, lo8 c] = 0#16 := by
  show crcStep cfg (crcStep cfg c (hi8 c)) (lo8 c) = 0#16
  rw [crcStep_crcStep, be16_hi8_lo8, BitVec.xor_self, crcShifts_zero]

section
variable {cfg : Cfg} (hp : cfg.crcPoly.getLsbD 0 = true)
include hp

theorem crcStep_left_injective (b : Byte) : Function.Injective (crcStep cfg · b) := by
  intro c d h
  simp only [crcStep_eq_crcShifts] at h
  exact (BitVec.xor_left_inj _).1 (crcShifts_injective hp 8 h)

theorem crcStep_right_injective (c : Half) : Function.Injective (crcStep cfg c) := by
  intro a b h
  rw [crcStep_eq_crcShifts, crcStep_eq_crcShifts] at h
  have hbytes : be16 a 0#8 = be16 b 0#8 := (BitVec.xor_right_inj c).1 (crcShifts_injective hp 8 h)
  have hnat := congrArg BitVec.toNat hbytes
  rw [be16_toNat, be16_toNat] at hnat
  exact BitVec.eq_of_toNat_eq (by omega)

theorem crcFold_injective (bs : List Byte) : Function.Injective (crcFold cfg · bs) := by
  induction bs with
  | nil => exact Function.injective_id
  | cons b bs ih => exact ih.comp (crcStep_left_injective hp b)

theorem crcStep_crcStep_eq_zero_iff (c : Half) (b₁ b₀ : Byte) :
    crcStep cfg (crcStep cfg c b₁) b₀ = 0#16 ↔ be16 b₁ b₀ = c := by
  rw [crcStep_crcStep, ← crcShifts_zero (poly := cfg.crcPoly) 16, (crcShifts_injective hp 16).eq_iff,
    BitVec.xor_eq_zero_iff, eq_comm]

end

end Sys2Proof.Machine
end

section
/-! SUPPORT. The CRC generator over a sequence of events (40_crc.md R123 to R125): only the CRC unit's events count. -/

namespace Sys2Proof.Machine

/-- Events of other units keep `crc_gen`, and none moves the configuration (R60). -/
theorem performAll_crcGen_unchanged {es : List Instr} {s t : State} (hes : ∀ i ∈ es, i.unit ≠ .crc)
    (h : performAll es s = .next t) : t.cfg = s.cfg ∧ t.crcGen = s.crcGen :=
  performAll_induct (P := fun u => u.cfg = s.cfg ∧ u.crcGen = s.crcGen)
    (fun i hi _ _ ⟨hc, hg⟩ hu => ⟨(exec_cfg_unchanged hu).trans hc, (exec_crcGen_unchanged (hes i hi) hu).trans hg⟩)
    ⟨rfl, rfl⟩ h

/-- A sequence whose first event of the CRC unit is `i` reaches it with `crc_gen` as it was. -/
theorem performAll_filter_crc_cons {es is : List Instr} {i : Instr} {s t : State}
    (hes : es.filter (fun i => i.unit == .crc) = i :: is) (h : performAll es s = .next t) :
    ∃ u v rest, u.cfg = s.cfg ∧ u.crcGen = s.crcGen ∧ exec i u = .next v ∧ performAll rest v = .next t ∧
      rest.filter (fun i => i.unit == .crc) = is := by
  obtain ⟨before, rest, rfl, hbefore, -, hrest⟩ := List.filter_eq_cons_iff.1 hes
  obtain ⟨u, hu, hiu⟩ := performAll_append_eq_next.1 h
  obtain ⟨v, hv, ht⟩ := performAll_cons_eq_next.1 hiu
  obtain ⟨hcfg, hgen⟩ := performAll_crcGen_unchanged (by simpa using hbefore) hu
  exact ⟨u, v, rest, hcfg, hgen, hv, ht, hrest⟩

/-- `CRC_BYTE` events, with any events of other units between them, fold their bytes into `crc_gen` (R124). -/
theorem performAll_crcBytes_crcGen {bs : List Byte} {es : List Instr} {s t : State}
    (hes : es.filter (fun i => i.unit == .crc) = bs.map .crcByte) (h : performAll es s = .next t) :
    t.crcGen = crcFold s.cfg s.crcGen bs := by
  induction bs generalizing es s with
  | nil =>
    have hnone : ∀ i ∈ es, i.unit ≠ .crc := by simpa using List.filter_eq_nil_iff.1 hes
    exact (performAll_crcGen_unchanged hnone h).2
  | cons b bs ih =>
    obtain ⟨u, v, rest, hcfg, hgen, hv, ht, hrest⟩ := performAll_filter_crc_cons hes h
    cases hv
    rw [ih hrest ht, State.setCrcGen_cfg, State.setCrcGen_crcGen, hcfg, hgen]
    rfl

end Sys2Proof.Machine
end

section
/-! The statements of 40_crc.md. -/

namespace Sys2Proof.Machine

/-- Settles O7: the two words are the events' encodings. -/
theorem crcEventsWriteCrcGenOnly : Obligations.CrcEventsWriteCrcGenOnly := by
  unfold Obligations.CrcEventsWriteCrcGenOnly
  exact fun s => ⟨⟨decode_encode .crcInit, exec_crcInit s⟩, fun b => ⟨decode_encode (.crcByte b), exec_crcByte b s⟩⟩

/-- Settles O8, by the linearity of the iterations of R120. -/
theorem crcFoldResidueAndTableLaws : Obligations.CrcFoldResidueAndTableLaws := by
  unfold Obligations.CrcFoldResidueAndTableLaws
  exact ⟨crc16_append, fun cfg a => crcFold_own_bytes cfg (crc16 cfg a), crcStep_eq_shift_xor_table⟩

/-- Settles O9: the registers are the same up to the flipped byte and differ after it, and no later byte makes them meet. -/
theorem crcDetectsEverySingleBitFlip : Obligations.CrcDetectsEverySingleBitFlip := by
  unfold Obligations.CrcDetectsEverySingleBitFlip
  intro cfg bs j k hp hj hk heq
  have hsplit : bs = bs.take j ++ bs[j] :: bs.drop (j + 1) := by
    rw [List.cons_getElem_drop_succ, List.take_append_drop]
  rw [flipBit, List.modify_eq_take_cons_drop hj] at heq
  conv_rhs at heq => rw [hsplit]
  rw [crc16_append, crc16_append] at heq
  have hstep := crcFold_injective hp (bs.drop (j + 1)) heq
  exact xor_one_shiftLeft_ne hk _ (crcStep_right_injective hp _ hstep)

/-- Settles O10: `CRC_INIT` comes first and makes `crc_gen` that of the empty sequence, whatever it was before. -/
theorem generatorComputesCrc16 : Obligations.GeneratorComputesCrc16 := by
  unfold Obligations.GeneratorComputesCrc16
  intro bs es s t hes h
  obtain ⟨u, v, rest, hcfg, -, hv, ht, hrest⟩ := performAll_filter_crc_cons hes h
  cases hv
  calc t.crcGen
    _ = crcFold u.cfg u.cfg.crcInit bs := performAll_crcBytes_crcGen hrest ht
    _ = crc16 s.cfg bs := by rw [hcfg]; rfl

/-- Settles O21: two steps are one-to-one in the register with the two bytes added, and take 0 to 0. -/
theorem residueTestIsTheComparison : Obligations.ResidueTestIsTheComparison := by
  unfold Obligations.ResidueTestIsTheComparison
  exact fun cfg c t0 t1 hp => (crcStep_crcStep_eq_zero_iff hp c t0 t1).symm

end Sys2Proof.Machine
end

section
/-! SUPPORT. The TX unit's events by the state they meet, and a whole frame through the encoder (41_encoder.md R140 to
R147). -/

namespace Sys2Proof.Machine

/-! ## One event, by the state it meets -/

theorem exec_txStart_of_payload {t : Byte} {n : Half} {s : State} (hs : s.tx.state = .payload) :
    exec (.txStart t n) s = .next (raiseUsage (encode (.txStart t n)) .txBusy s) := by
  simp only [exec, execTxStart, hs]

theorem exec_txStart_of_idle {t : Byte} {n : Half} {s : State} (hs : s.tx.state = .idle) :
    exec (.txStart t n) s = .next (txOpen t n s) := by
  simp only [exec, execTxStart, hs]

theorem exec_txByte_of_idle {b : Byte} {s : State} (hs : s.tx.state = .idle) :
    exec (.txByte b) s = .next (raiseUsage (encode (.txByte b)) .txIdle s) := by
  simp only [exec, execTxByte, hs]

theorem exec_txByte_of_payload {b : Byte} {s : State} (hs : s.tx.state = .payload) (hr : s.tx.rem ≠ 0#16) :
    exec (.txByte b) s = .next (txPass b s) := by
  simp only [exec, execTxByte, hs, hr, if_false]

/-! ## What opening a frame and passing a byte leave -/

theorem txOpen_zero_tx (t : Byte) (s : State) : (txOpen t 0#16 s).tx =
    { s.tx with
      crc := crc16 s.cfg (txHeader s.cfg t 0#16)
      out := s.tx.out ++ ([s.cfg.sync0, s.cfg.sync1] ++ txHeader s.cfg t 0#16 ++
        crcBytes (crc16 s.cfg (txHeader s.cfg t 0#16))) } := by
  simp [txOpen_eq]

theorem txOpen_tx_of_ne_zero (t : Byte) {n : Half} (hn : n ≠ 0#16) (s : State) : (txOpen t n s).tx =
    { state := .payload, rem := n, crc := crc16 s.cfg (txHeader s.cfg t n),
      out := s.tx.out ++ ([s.cfg.sync0, s.cfg.sync1] ++ txHeader s.cfg t n) } := by
  simp [txOpen_eq, hn]

/-- The count comes to nothing owed exactly at the last byte; `txPass` tests it after counting. -/
theorem sub_one_eq_zero_iff (r : Half) : r - 1#16 = 0#16 ↔ r = 1#16 := by bv_omega

theorem txPass_tx_of_last (b : Byte) {s : State} (hr : s.tx.rem = 1#16) : (txPass b s).tx =
    { state := .idle, rem := 0#16, crc := crcStep s.cfg s.tx.crc b,
      out := s.tx.out ++ ([b] ++ crcBytes (crcStep s.cfg s.tx.crc b)) } := by
  simp [txPass_eq, hr]

theorem txPass_tx_of_more (b : Byte) {s : State} (hr : s.tx.rem ≠ 1#16) : (txPass b s).tx =
    { s.tx with rem := s.tx.rem - 1#16, crc := crcStep s.cfg s.tx.crc b, out := s.tx.out ++ [b] } := by
  simp [txPass_eq, sub_one_eq_zero_iff, hr]

@[simp] theorem txOpen_cfg (t : Byte) (n : Half) (s : State) : (txOpen t n s).cfg = s.cfg := by rw [txOpen_eq]

@[simp] theorem txPass_cfg (b : Byte) (s : State) : (txPass b s).cfg = s.cfg := by rw [txPass_eq]

/-- No event withdraws an emitted byte (R146). -/
theorem exec_out_prefix {i : Instr} {s t : State} (h : exec i s = .next t) : s.tx.out <+: t.tx.out := by
  by_cases hu : i.unit = .tx
  case neg => rw [exec_tx_unchanged hu h]
  case pos =>
    cases i <;> simp only [Instr.unit, reduceCtorEq] at hu
    case txStart y n =>
      obtain ⟨q, hq, -⟩ := exec_txStart_out h
      exact ⟨q, hq.symm⟩
    case txByte b =>
      obtain ⟨q, hq, -⟩ := exec_txByte_out h
      exact ⟨q, hq.symm⟩

/-! ## A whole frame, without other events -/

/-- The bytes an open frame owes go out unchanged, then the CRC over them, and the frame is closed (R142). -/
theorem performAll_txBytes {b : Byte} {bs : List Byte} {s : State} (hs : s.tx.state = .payload)
    (hr : s.tx.rem.toNat = bs.length + 1) :
    ∃ u, performAll ((b :: bs).map .txByte) s = .next u ∧
      u.tx.out = s.tx.out ++ ((b :: bs) ++ crcBytes (crcFold s.cfg s.tx.crc (b :: bs))) ∧ u.tx.state = .idle := by
  induction bs generalizing b s with
  | nil =>
    have hlast : s.tx.rem = 1#16 := BitVec.eq_of_toNat_eq hr
    refine ⟨txPass b s, ?_, ?_, ?_⟩
    · simp [exec_txByte_of_payload hs, hlast]
    · rw [txPass_tx_of_last b hlast]; rfl
    · rw [txPass_tx_of_last b hlast]
  | cons c bs ih =>
    rw [List.length_cons] at hr
    have htx := txPass_tx_of_more b (s := s) (by bv_omega)
    obtain ⟨u, hrun, hout, hidle⟩ := ih (b := c) (s := txPass b s) (by rw [htx, hs]) (by rw [htx]; bv_omega)
    refine ⟨u, ?_, ?_, hidle⟩
    · rw [List.map_cons, performAll_cons, exec_txByte_of_payload hs (by bv_omega), andThen_next, hrun]
    · simp [hout, htx, crcFold]

/-- `TX_START` and the payload bytes of a frame, from `IDLE`, complete and emit the frame (R147). -/
theorem performAll_txFrame {t : Byte} {p : List Byte} {s : State} (hs : s.tx.state = .idle) (hp : p.length ≤ 65535) :
    ∃ u, performAll (.txStart t (BitVec.ofNat 16 p.length) :: p.map .txByte) s = .next u ∧
      u.tx.out = s.tx.out ++ buildFrame s.cfg t p ∧ u.tx.state = .idle := by
  rw [performAll_cons, exec_txStart_of_idle hs, andThen_next]
  cases p with
  | nil =>
    refine ⟨txOpen t 0#16 s, rfl, ?_, ?_⟩
    · rw [txOpen_zero_tx]; rfl
    · rw [txOpen_zero_tx, hs]
  | cons b bs =>
    have hlen : (BitVec.ofNat 16 (b :: bs).length).toNat = bs.length + 1 := by
      rw [BitVec.toNat_ofNat, Nat.mod_eq_of_lt (by omega), List.length_cons]
    have htx := txOpen_tx_of_ne_zero t (n := BitVec.ofNat 16 (b :: bs).length) (by bv_omega) s
    obtain ⟨u, hrun, hout, hidle⟩ := performAll_txBytes (b := b) (bs := bs)
      (s := txOpen t (BitVec.ofNat 16 (b :: bs).length) s) (by rw [htx]) (by rw [htx, hlen])
    refine ⟨u, hrun, ?_, hidle⟩
    rw [hout, htx, txOpen_cfg, ← crc16_append]
    simp [buildFrame, txHeader, crcBytes]

/-! ## Events of other units in between -/

theorem SameFor.trans {c : CodecUnit} {s u v : State} (h : SameFor c s u) (h' : SameFor c u v) : SameFor c s v := by
  cases c <;> simp_all [SameFor]

/-- The effect of an event put on a state with the same configuration leaves its unit as the event left it. -/
theorem replay_sameFor {c : CodecUnit} (hc : c ≠ .control) {s u s' : State} (h : s'.cfg = u.cfg) :
    SameFor c u (replay c s u s') := by
  cases c
  case control => exact absurd rfl hc
  all_goals exact ⟨h, by simp [replay, withUnitOf]⟩

/-- A unit ends a sequence of events as it ends the sequence of its own events alone. -/
theorem performAll_filter_sameFor {c : CodecUnit} (hc : c ≠ .control) {es : List Instr} {s s' t : State}
    (hsame : SameFor c s' s) (h : performAll es s = .next t) :
    ∃ t', performAll (es.filter fun i => i.unit == c) s' = .next t' ∧ SameFor c t' t := by
  induction es generalizing s s' with
  | nil =>
    cases h
    exact ⟨s', rfl, hsame⟩
  | cons i is ih =>
    obtain ⟨u, hu, ht⟩ := performAll_cons_eq_next.1 h
    by_cases hi : i.unit = c
    · subst hi
      obtain ⟨u', hu', rfl⟩ := exec_eq_replay hsame hu
      have hcfg : s.cfg = u'.cfg := hsame.1.trans (exec_cfg_unchanged hu').symm
      obtain ⟨t', ht', hend⟩ := ih (replay_sameFor hc hcfg) ht
      refine ⟨t', ?_, hend⟩
      rw [List.filter_cons_of_pos (by simp)]
      exact performAll_cons_eq_next.2 ⟨u', hu', ht'⟩
    · rw [List.filter_cons_of_neg (by simpa using hi)]
      exact ih (hsame.trans (exec_sameFor hi hc hu)) ht

end Sys2Proof.Machine
end

section
/-! The statements of 41_encoder.md. -/

namespace Sys2Proof.Machine

/-- Settles O13: only a `TX_BYTE` of an open frame writes the TX unit. -/
theorem openFrameEndsOnlyByItsBytes : Obligations.OpenFrameEndsOnlyByItsBytes := by
  unfold Obligations.OpenFrameEndsOnlyByItsBytes
  intro i s t hp h
  refine ⟨?_, fun hi => ?_, exec_out_prefix h⟩
  · rintro b rfl
    rcases exec_txByte_cases h with ⟨hidle, -⟩ | ⟨-, hr, rfl⟩
    · cases hp.symm.trans hidle
    · by_cases hlast : s.tx.rem = 1#16
      · simp [txPass_tx_of_last b hlast, hlast]
      · rw [txPass_tx_of_more b hlast]
        exact ⟨by bv_omega, by simp [hp, hlast]⟩
  · by_cases hu : i.unit = .tx
    case neg => exact exec_tx_unchanged hu h
    case pos =>
      cases i <;> simp only [Instr.unit, reduceCtorEq] at hu
      case txStart y n =>
        cases (exec_txStart_of_payload hp).symm.trans h
        rfl
      case txByte b => exact absurd rfl (hi b)

/-- Settles O14: the TX unit ends any sequence as it ends its own events alone, and these emit the frame. -/
theorem encoderEmitsBuildFrame : Obligations.EncoderEmitsBuildFrame := by
  unfold Obligations.EncoderEmitsBuildFrame
  intro t p s hp hs
  obtain ⟨v, hv, hout, hidle⟩ := performAll_txFrame (t := t) hs hp
  refine ⟨⟨v, hv⟩, fun es u hes hu => ?_⟩
  obtain ⟨v', hv', -, htx⟩ := performAll_filter_sameFor (c := .tx) (by decide) (.refl .tx s) hu
  rw [hes, hv] at hv'
  cases hv'
  rw [htx]
  exact ⟨hout, hidle⟩

/-- Settles O11: with no frame open it is what `txOpen` leaves. -/
theorem txStartOpensAFrame : Obligations.TxStartOpensAFrame := by
  unfold Obligations.TxStartOpensAFrame
  intro t n s
  refine ⟨decode_encode (.txStart t n), exec_txStart_of_payload, fun hs => ?_⟩
  rw [exec_txStart_of_idle hs, txOpen_eq, hs]
  rfl

/-- Settles O12: with a frame open it is what `txPass` leaves, whose test for the last byte comes after the count. -/
theorem txBytePassesOneByte : Obligations.TxBytePassesOneByte := by
  unfold Obligations.TxBytePassesOneByte
  intro b s
  refine ⟨decode_encode (.txByte b), exec_txByte_of_idle, fun hs hr => ?_⟩
  rw [exec_txByte_of_payload hs hr, txPass_eq, hs]
  simp only [sub_one_eq_zero_iff]
  rfl

end Sys2Proof.Machine
end

section
/-! SUPPORT. The RX events by the state they meet, and when they complete (42_decoder.md R160 to R175). -/

namespace Sys2Proof.Machine

/-! ## The sync stages -/

theorem RxUnit.with_state_self {u : RxUnit} {st : RxState} (h : u.state = st) : { u with state := st } = u := by
  rw [← h]

theorem rxStep_seekSync0 {cfg : Cfg} {b : Byte} {u : RxUnit} (hs : u.state = .seekSync0) :
    rxStep cfg b u = .ok ({ u with state := if b = cfg.sync0 then .seekSync1 else .seekSync0 }, none) := by
  by_cases hb : b = cfg.sync0
  · simp [rxStep, hs, rxSeekSync0, hb]
  · simp [rxStep, hs, rxSeekSync0, hb, RxUnit.with_state_self hs]

theorem rxStep_seekSync1_mismatch {cfg : Cfg} {b : Byte} {u : RxUnit} (hs : u.state = .seekSync1)
    (hb : b ≠ cfg.sync1) : rxStep cfg b u = .ok (rxSync1Mismatch cfg b u) := by
  simp only [rxStep, hs, rxSeekSync1, hb, if_false]

section
variable {cfg : Cfg} {b : Byte} {u : RxUnit} (hs : u.state = .seekSync1) (hb : b ≠ cfg.sync1)
include hs hb

theorem rxStep_seekSync1_rescan (hm : cfg.sync1Mismatch = .rescan) :
    rxStep cfg b u = .ok ({ u with state := if b = cfg.sync0 then .seekSync1 else .seekSync0 }, none) := by
  rw [rxStep_seekSync1_mismatch hs hb, rxSync1Mismatch, hm]
  by_cases h0 : b = cfg.sync0
  · simp [h0, RxUnit.with_state_self hs]
  · simp [h0]

theorem rxStep_seekSync1_discard (hm : cfg.sync1Mismatch = .discard) :
    rxStep cfg b u = .ok ({ u with state := .seekSync0 }, none) := by
  rw [rxStep_seekSync1_mismatch hs hb, rxSync1Mismatch, hm]

theorem rxStep_seekSync1_report (hm : cfg.sync1Mismatch = .report) : rxStep cfg b u = .ok (u, some (.syncErr b)) := by
  rw [rxStep_seekSync1_mismatch hs hb, rxSync1Mismatch, hm]

end

/-! ## Header, payload, timeout -/

theorem bytes_put (h : Header) (b : Byte) {i : Nat} (hi : i < 4) : (h.put i b).bytes = h.bytes.set i b := by
  match i, hi with
  | 0, _ => rfl
  | 1, _ => rfl
  | 2, _ => rfl
  | 3, _ => rfl

theorem rxHeaderComplete_of_gt {cfg : Cfg} {u : RxUnit} (h : cfg.payloadCap < (be16 u.hdr.lenHi u.hdr.lenLo).toNat) :
    rxHeaderComplete cfg u = ({ u with len := be16 u.hdr.lenHi u.hdr.lenLo, idx := 0#16 }, some .lenErr) := by
  simp only [rxHeaderComplete, h, if_true]

theorem rxHeaderComplete_of_le {cfg : Cfg} {u : RxUnit} (h : (be16 u.hdr.lenHi u.hdr.lenLo).toNat ≤ cfg.payloadCap) :
    rxHeaderComplete cfg u = ({ u with
      len := be16 u.hdr.lenHi u.hdr.lenLo
      idx := 0#16
      state := if be16 u.hdr.lenHi u.hdr.lenLo = 0#16 then .trailer else .payload }, none) := by
  simp only [rxHeaderComplete, Nat.not_lt.2 h, if_false]
  split <;> rfl

/-- The unit compares `rx_idx` with `rx_len` after counting up; below `rx_len` the count does not wrap. -/
theorem idx_succ_eq_len_iff {i n : Half} (h : i.toNat < n.toNat) : i + 1#16 = n ↔ i.toNat + 1 = n.toNat := by
  bv_omega

theorem exec_rxTimeout_of_named {s : State} (h : s.rx.state.isNamed = true) :
    exec .rxTimeout s = .next (takeOutcome (.timeout s.rx.state) s) :=
  exec_rxTimeout_eq_next.2 ⟨h, rfl⟩

/-! ## Completion -/

theorem RxMeetsR62.isNamed {cfg : Cfg} {u : RxUnit} (h : RxMeetsR62 cfg u) : u.state.isNamed = true := by
  unfold RxMeetsR62 at h
  cases hs : u.state <;> simp_all [RxState.isNamed]

theorem RxMeetsR62.rxStep_completes {cfg : Cfg} {u : RxUnit} (h : RxMeetsR62 cfg u) (b : Byte) :
    ∃ v o, rxStep cfg b u = .ok (v, o) := by
  unfold RxMeetsR62 at h
  cases hs : u.state <;> rw [hs] at h
  case seekSync0 => exact ⟨_, _, rxStep_seekSync0 hs⟩
  case seekSync1 =>
    by_cases hb : b = cfg.sync1
    · exact ⟨_, _, hb ▸ rxStep_seekSync1_sync1 hs⟩
    · exact ⟨_, _, rxStep_seekSync1_mismatch hs hb⟩
  case header =>
    obtain ⟨hi, -⟩ := h
    by_cases h3 : u.idx = 3#16
    · exact ⟨_, _, rxStep_header_last hs h3⟩
    · exact ⟨_, _, rxStep_header_of_le_two hs (by bv_omega)⟩
  case payload =>
    obtain ⟨-, hcap, hi, -⟩ := h
    exact ⟨_, _, rxStep_payload hs hi (by omega)⟩
  case trailer =>
    obtain ⟨hi, -⟩ := h
    by_cases h0 : u.idx = 0#16
    · exact ⟨_, _, rxStep_trailer_first hs h0⟩
    · exact ⟨_, _, rxStep_trailer_second hs (by bv_omega)⟩
  all_goals exact h.elim

/-- In a state R62 allows, every RX event completes (R160, R175). -/
theorem exec_rx_completes {i : Instr} (hi : i.unit = .rx) {s : State} (hs : RxMeetsR62 s.cfg s.rx) :
    ∃ t, exec i s = .next t := by
  cases i <;> simp only [Instr.unit, reduceCtorEq] at hi
  case rxByte b =>
    obtain ⟨u, o, hstep⟩ := hs.rxStep_completes b
    exact ⟨_, exec_rxByte_of_ok hstep⟩
  case rxTimeout => exact ⟨_, exec_rxTimeout_of_named hs.isNamed⟩

theorem performAll_rx_completes {es : List Instr} (hes : ∀ i ∈ es, i.unit = .rx) {s : State}
    (hs : RxMeetsR62 s.cfg s.rx) : ∃ t, performAll es s = .next t := by
  induction es generalizing s with
  | nil => exact ⟨s, rfl⟩
  | cons i es ih =>
    obtain ⟨u, hu⟩ := exec_rx_completes (hes i List.mem_cons_self) hs
    obtain ⟨t, ht⟩ := ih (fun j hj => hes j (List.mem_cons_of_mem i hj)) (exec_keeps_rx hs hu)
    exact ⟨t, performAll_cons_eq_next.2 ⟨u, hu, ht⟩⟩

/-! ## The named states -/

theorem rxStep_isNamed {cfg : Cfg} {b : Byte} {u v : RxUnit} {o : Option RxOutcome} (h : rxStep cfg b u = .ok (v, o)) :
    v.state.isNamed = true := by
  rcases rxStep_ok h with ⟨hs, -, rfl⟩ | ⟨-, -, -, rfl⟩ | ⟨hs, -, hv⟩ | ⟨hs, hv⟩ | ⟨hs, hv⟩ | ⟨hs, hv⟩
  · by_cases hb : b = cfg.sync0 <;> simp [hb, hs, RxState.isNamed]
  · rfl
  · rcases rxSync1Mismatch_cases hv with ⟨-, rfl | rfl⟩ | ⟨-, rfl, -⟩ <;> simp [hs, RxState.isNamed]
  · obtain ⟨-, ⟨-, -, rfl⟩ | ⟨-, hc⟩⟩ := rxHeader_ok hv
    · simp [hs, RxState.isNamed]
    · rcases rxHeaderComplete_cases hc with ⟨-, -, rfl⟩ | ⟨-, -, rfl⟩ | ⟨-, -, -, rfl⟩ <;> simp [hs, RxState.isNamed]
  · obtain ⟨-, -, -, rfl⟩ := rxPayload_ok hv
    by_cases hl : u.idx + 1#16 = u.len <;> simp [hl, hs, RxState.isNamed]
  · rcases rxTrailer_ok hv with ⟨-, -, rfl⟩ | ⟨-, rfl, -⟩ <;> simp [hs, RxState.isNamed]

theorem performAll_rxBytes_isNamed {bs : List Byte} {s t : State} (hs : s.rx.state.isNamed = true)
    (h : performAll (rxBytes bs) s = .next t) : t.rx.state.isNamed = true := by
  refine performAll_induct (P := fun u => u.rx.state.isNamed = true) (fun i hi u v _ hv => ?_) hs h
  obtain ⟨b, -, rfl⟩ := List.mem_map.1 hi
  obtain ⟨w, o, hstep, rfl⟩ := exec_rxByte_eq_next.1 hv
  cases o with
  | none => exact rxStep_isNamed hstep
  | some o => rfl

/-- After bytes that report nothing, a timeout is the first outcome (R175). -/
theorem performAll_timeout_of_quiet {bs : List Byte} {s u : State} (hs : s.rx.state.isNamed = true)
    (h : performAll (rxBytes bs) s = .next u) (hquiet : u.trace = s.trace) :
    ∃ t st, performAll (rxBytes bs ++ [.rxTimeout]) s = .next t ∧ newEvents s t = [.rxTimeout st] := by
  refine ⟨takeOutcome (.timeout u.rx.state) u, u.rx.state, ?_, newEvents_of_trace ?_⟩
  · rw [performAll_append, h, andThen_next, performAll_singleton]
    exact exec_rxTimeout_of_named (performAll_rxBytes_isNamed hs h)
  · rw [takeOutcome_trace, hquiet]
    rfl

end Sys2Proof.Machine
end

section
/-! SUPPORT. The scan for the start marker (42_decoder.md R161 to R163, R178): under `RESCAN` against the pair of sync
bytes, under `DISCARD` against the source's synchronization. -/

namespace Sys2Proof.Machine

/-! ## `RESCAN` -/

/-- Bytes without the pair leave the scan in the sync stages, where the last of them puts it (R178). -/
theorem performAll_noise {q : List Byte} {s : State} (hm : s.cfg.sync1Mismatch = .rescan)
    (hs : s.rx.state = .seekSync0) (hq : ¬ [s.cfg.sync0, s.cfg.sync1] <:+: q) :
    performAll (rxBytes q) s = .next (s.setRx { s.rx with
      state := if q.getLast? = some s.cfg.sync0 then .seekSync1 else .seekSync0 }) := by
  induction q using List.reverseRecOn with
  | nil => simp [State.setRx, RxUnit.with_state_self hs]
  | append_singleton q b ih =>
    rw [rxBytes_append, performAll_append, ih fun h => hq (h.trans (List.infix_append_left ..)), andThen_next,
      List.getLast?_concat]
    simp only [Option.some.injEq]
    have hstep : rxStep s.cfg b { s.rx with state := if q.getLast? = some s.cfg.sync0 then .seekSync1 else .seekSync0 } =
        .ok ({ s.rx with state := if b = s.cfg.sync0 then .seekSync1 else .seekSync0 }, none) := by
      by_cases hlast : q.getLast? = some s.cfg.sync0
      · obtain ⟨r, rfl⟩ := List.getLast?_eq_some_iff.1 hlast
        have hb : b ≠ s.cfg.sync1 := by
          rintro rfl
          exact hq ⟨r, [], by simp⟩
        simp only [hlast, if_true]
        exact rxStep_seekSync1_rescan rfl hb hm
      · simp only [hlast, if_false]
        exact rxStep_seekSync0 rfl
    exact performAll_rxBytes_cons (s := s.setRx _) (bs := []) hstep

/-- Bytes whose first pair is at their end lead to the header (R162, R178). -/
theorem performAll_noise_marker {q : List Byte} {s : State} (hm : s.cfg.sync1Mismatch = .rescan)
    (hs : s.rx.state = .seekSync0) (hq : ¬ [s.cfg.sync0, s.cfg.sync1] <:+: q ++ [s.cfg.sync0]) :
    performAll (rxBytes (q ++ [s.cfg.sync0, s.cfg.sync1])) s =
      .next (s.setRx { s.rx with state := .header, idx := 0#16, crc := s.cfg.crcInit }) := by
  have hsplit : q ++ [s.cfg.sync0, s.cfg.sync1] = (q ++ [s.cfg.sync0]) ++ [s.cfg.sync1] := by simp
  rw [hsplit, rxBytes_append, performAll_append, performAll_noise hm hs hq, List.getLast?_concat, if_pos rfl,
    andThen_next]
  exact performAll_rxBytes_cons (s := s.setRx _) (rxStep_seekSync1_sync1 rfl)

/-- The first byte of a pair of different bytes does not complete one. -/
theorem pair_not_infix_concat {a b : Byte} (hne : a ≠ b) {q : List Byte} (hq : ¬ [a, b] <:+: q) :
    ¬ [a, b] <:+: q ++ [a] := by
  rw [List.infix_concat_iff]
  rintro (⟨l, hl⟩ | hin)
  · have hlast := congrArg List.getLast? hl
    rw [List.getLast?_concat, ← List.singleton_append, ← List.append_assoc, List.getLast?_concat] at hlast
    exact hne (Option.some.inj hlast).symm
  · exact hq hin

/-- Noise before a marker makes no difference: both ways the marker leads to the header, with nothing else changed. -/
theorem performAll_noise_skip {q : List Byte} {s : State} (hm : s.cfg.sync1Mismatch = .rescan)
    (hne : s.cfg.sync0 ≠ s.cfg.sync1) (hs : s.rx.state = .seekSync0) (hq : ¬ [s.cfg.sync0, s.cfg.sync1] <:+: q)
    (bs : List Byte) : performAll (rxBytes (q ++ ([s.cfg.sync0, s.cfg.sync1] ++ bs))) s =
      performAll (rxBytes ([s.cfg.sync0, s.cfg.sync1] ++ bs)) s := by
  have hmarker := performAll_noise_marker hm hs (pair_not_infix_concat hne hq)
  have hmarker₀ := performAll_noise_marker (q := []) hm hs (pair_not_infix_concat hne (by simp))
  rw [List.nil_append] at hmarker₀
  rw [← List.append_assoc, rxBytes_append, performAll_append, hmarker, rxBytes_append, performAll_append, hmarker₀]

/-! ## `DISCARD` -/

theorem performAll_rxBytes_cons_of_ne_sync0 {s : State} (hs : s.rx.state = .seekSync0) {b : Byte}
    (hb : b ≠ s.cfg.sync0) (bs : List Byte) : performAll (rxBytes (b :: bs)) s = performAll (rxBytes bs) s := by
  have hstep := rxStep_seekSync0 (cfg := s.cfg) (b := b) hs
  rw [if_neg hb, RxUnit.with_state_self hs] at hstep
  exact performAll_rxBytes_cons hstep

/-- `SYNC0` and a wrong second byte leave no trace (R163). -/
theorem performAll_rxBytes_cons_discard {s : State} (hm : s.cfg.sync1Mismatch = .discard)
    (hs : s.rx.state = .seekSync0) {c : Byte} (hc : c ≠ s.cfg.sync1) (bs : List Byte) :
    performAll (rxBytes (s.cfg.sync0 :: c :: bs)) s = performAll (rxBytes bs) s := by
  have hstep := rxStep_seekSync1_discard (cfg := s.cfg) (u := { s.rx with state := .seekSync1 }) rfl hc hm
  have hback : { s.rx with state := .seekSync0 } = s.rx := RxUnit.with_state_self hs
  calc performAll (rxBytes (s.cfg.sync0 :: c :: bs)) s
    _ = performAll (rxBytes (c :: bs)) (s.setRx { s.rx with state := .seekSync1 }) :=
      performAll_rxBytes_cons (rxStep_seekSync0_sync0 hs)
    _ = performAll (rxBytes bs) (s.setRx { s.rx with state := .seekSync0 }) :=
      performAll_rxBytes_cons (s := s.setRx _) hstep
    _ = performAll (rxBytes bs) s := by rw [hback]; rfl

theorem findMarker_cons_of_ne_sync0 {cfg : Cfg} {b : Byte} (hb : b ≠ cfg.sync0) (bs : List Byte) :
    findMarker cfg (b :: bs) = findMarker cfg bs := by
  rw [findMarker.eq_def]
  simp [hb]

/-- A stream in which the source finds no marker moves the RX unit only. -/
theorem performAll_of_findMarker_none {bs : List Byte} {s : State} (hm : s.cfg.sync1Mismatch = .discard)
    (hs : s.rx.state = .seekSync0) (hbs : findMarker s.cfg bs = none) :
    ∃ u, performAll (rxBytes bs) s = .next (s.setRx u) := by
  induction bs using findMarker.induct s.cfg with
  | case1 => exact ⟨s.rx, rfl⟩
  | case2 => exact ⟨_, performAll_rxBytes_cons (rxStep_seekSync0_sync0 hs)⟩
  | case3 rest => simp [findMarker] at hbs
  | case4 c rest hc ih =>
    rw [performAll_rxBytes_cons_discard hm hs hc]
    exact ih (by simpa [findMarker, hc] using hbs)
  | case5 b rest hb ih =>
    rw [performAll_rxBytes_cons_of_ne_sync0 hs hb]
    exact ih (findMarker_cons_of_ne_sync0 hb _ ▸ hbs)

/-- A stream in which the source finds a marker is decoded as the marker and what follows it. -/
theorem performAll_of_findMarker_some {bs rest : List Byte} {s : State} (hm : s.cfg.sync1Mismatch = .discard)
    (hs : s.rx.state = .seekSync0) (hbs : findMarker s.cfg bs = some rest) :
    performAll (rxBytes bs) s = performAll (rxBytes ([s.cfg.sync0, s.cfg.sync1] ++ rest)) s := by
  induction bs using findMarker.induct s.cfg with
  | case1 => simp [findMarker] at hbs
  | case2 => simp [findMarker] at hbs
  | case3 rest' =>
    obtain rfl : rest' = rest := by simpa [findMarker] using hbs
    rfl
  | case4 c rest' hc ih =>
    rw [performAll_rxBytes_cons_discard hm hs hc]
    exact ih (by simpa [findMarker, hc] using hbs)
  | case5 b rest' hb ih =>
    rw [performAll_rxBytes_cons_of_ne_sync0 hs hb]
    exact ih (findMarker_cons_of_ne_sync0 hb _ ▸ hbs)

end Sys2Proof.Machine
end

section
/-! SUPPORT. Whole frames through the decoder: the encoder's, those with a flipped bit, and the source's parser on what
follows a marker (42_decoder.md R177 to R181). -/

namespace Sys2Proof.Machine

/-! ## The frames of the encoder -/

theorem performAll_cfg_unchanged {es : List Instr} {s t : State} (h : performAll es s = .next t) : t.cfg = s.cfg :=
  performAll_induct (P := fun u => u.cfg = s.cfg) (fun _ _ _ _ hc hu => (exec_cfg_unchanged hu).trans hc) rfl h

/-- The header of a payload that fits 16 bits tells its length (R90, R144). -/
theorem frameHeader_len_toNat (cfg : Cfg) (t : Byte) {p : List Byte} (hp : p.length ≤ 65535) :
    (be16 (frameHeader cfg t (BitVec.ofNat 16 p.length)).lenHi
      (frameHeader cfg t (BitVec.ofNat 16 p.length)).lenLo).toNat = p.length := by
  rw [frameHeader, be16_hi8_lo8, BitVec.toNat_ofNat, Nat.mod_eq_of_lt (by omega)]

/-- What the encoder sends is a frame of R90, with the CRC of its body as trailer. -/
theorem buildFrame_eq_wireFrame (cfg : Cfg) (t : Byte) (p : List Byte) :
    let h := frameHeader cfg t (BitVec.ofNat 16 p.length)
    buildFrame cfg t p = wireFrame cfg h p (hi8 (crc16 cfg (crcBody h p))) (lo8 (crc16 cfg (crcBody h p))) := by
  simp [buildFrame, wireFrame, crcBody, frameHeader]

/-- One frame of the encoder, from `SEEK_SYNC0`: silence before its last byte, then `FRAME_OK` (R181). -/
theorem performAll_buildFrame {t : Byte} {p : List Byte} {s : State} (hs : s.rx.state = .seekSync0)
    (hcap : p.length ≤ s.cfg.payloadCap) (hp : p.length ≤ 65535) :
    (∀ k < (buildFrame s.cfg t p).length, ∃ u,
      performAll (rxBytes ((buildFrame s.cfg t p).take k)) s = .next u ∧ u.trace = s.trace) ∧
    ∃ u, performAll (rxBytes (buildFrame s.cfg t p)) s = .next u ∧
      u.trace = s.trace ++ [.rxFrameOk s.cfg.versionTx t p] ∧ u.rx.state = .seekSync0 := by
  obtain ⟨hquiet, u, hrun, htrace, hst, -, -⟩ :=
    decoderClosedForm (frameHeader s.cfg t (BitVec.ofNat 16 p.length)) p _ _ s hs
      (frameHeader_len_toNat s.cfg t hp) hcap
  rw [← buildFrame_eq_wireFrame] at hquiet hrun
  exact ⟨hquiet, u, hrun, by simpa [frameHeader] using htrace, hst⟩

/-- Frames back to back: each leaves the decoder in `SEEK_SYNC0`, where the next one begins (R181). -/
theorem performAll_buildFrames {fs : List (Byte × List Byte)} {s : State} (hs : s.rx.state = .seekSync0)
    (hfs : ∀ f ∈ fs, f.2.length ≤ s.cfg.payloadCap ∧ f.2.length ≤ 65535) :
    ∃ t, performAll (rxBytes (fs.flatMap fun f => buildFrame s.cfg f.1 f.2)) s = .next t ∧
      t.trace = s.trace ++ fs.map (fun f => .rxFrameOk s.cfg.versionTx f.1 f.2) ∧ t.rx.state = .seekSync0 := by
  induction fs generalizing s with
  | nil => exact ⟨s, rfl, by simp, hs⟩
  | cons f fs ih =>
    obtain ⟨hcap, hp⟩ := hfs f List.mem_cons_self
    obtain ⟨-, u, hu, htrace, hst⟩ := performAll_buildFrame (t := f.1) hs hcap hp
    have hcfg : u.cfg = s.cfg := performAll_cfg_unchanged hu
    obtain ⟨v, hv, hvtrace, hvst⟩ := ih hst fun g hg => hcfg ▸ hfs g (List.mem_cons_of_mem f hg)
    rw [hcfg] at hv hvtrace
    refine ⟨v, ?_, by simp [hvtrace, htrace], hvst⟩
    rw [List.flatMap_cons, rxBytes_append, performAll_append, hu, andThen_next, hv]

/-! ## A frame with a flipped bit -/

theorem flipBit_append_left {a : List Byte} {j : Nat} (hj : j < a.length) (b : List Byte) (k : Nat) :
    flipBit (a ++ b) j k = flipBit a j k ++ b := by
  have hj' : j < (a ++ b).length := by rw [List.length_append]; omega
  rw [flipBit, flipBit, List.modify_eq_take_cons_drop hj, List.modify_eq_take_cons_drop hj',
    List.take_append_of_le_length hj.le, List.drop_append_of_le_length hj, List.getElem_append_left hj,
    List.append_assoc, List.cons_append]

theorem flipBit_append_right (a b : List Byte) (j k : Nat) : flipBit (a ++ b) (a.length + j) k = a ++ flipBit b j k :=
  List.modifyTailIdx_add ..

theorem be16_inj {a b c d : Byte} : be16 a b = be16 c d ↔ a = c ∧ b = d := by
  refine ⟨fun h => ?_, by rintro ⟨rfl, rfl⟩; rfl⟩
  have hnat := congrArg BitVec.toNat h
  rw [be16_toNat, be16_toNat] at hnat
  constructor <;> bv_omega

/-- A frame cut after its header. -/
theorem wireFrame_eq_append (cfg : Cfg) (h : Header) (p : List Byte) (t0 t1 : Byte) :
    wireFrame cfg h p t0 t1 = ([cfg.sync0, cfg.sync1] ++ h.bytes) ++ (p ++ [t0, t1]) := by
  simp [wireFrame, crcBody, Header.bytes]

theorem flipBit_wireFrame_after_header (cfg : Cfg) (h : Header) (p : List Byte) (t0 t1 : Byte) (i k : Nat) :
    flipBit (wireFrame cfg h p t0 t1) (6 + i) k =
      ([cfg.sync0, cfg.sync1] ++ h.bytes) ++ flipBit (p ++ [t0, t1]) i k := by
  rw [wireFrame_eq_append]
  exact flipBit_append_right ..

/-- A flipped bit outside the sync and the length bytes leaves a frame of the same length, whose trailer is not the CRC of
its body: a flip in the body changes the CRC (R127), one in the trailer the value compared with it. -/
theorem flipBit_wireFrame {cfg : Cfg} (hpoly : cfg.crcPoly.getLsbD 0 = true) {h : Header} {p : List Byte} {t0 t1 : Byte}
    (hcrc : be16 t0 t1 = crc16 cfg (crcBody h p)) {j k : Nat} (hk : k < 8)
    (hj : j = 2 ∨ j = 3 ∨ (6 ≤ j ∧ j < (wireFrame cfg h p t0 t1).length)) :
    ∃ h' p' t0' t1', flipBit (wireFrame cfg h p t0 t1) j k = wireFrame cfg h' p' t0' t1' ∧
      be16 h'.lenHi h'.lenLo = be16 h.lenHi h.lenLo ∧ p'.length = p.length ∧
      be16 t0' t1' ≠ crc16 cfg (crcBody h' p') := by
  have hbody {i : Nat} (hi : i < (crcBody h p).length) : be16 t0 t1 ≠ crc16 cfg (flipBit (crcBody h p) i k) :=
    hcrc ▸ (crcDetectsEverySingleBitFlip cfg (crcBody h p) i k hpoly hi hk).symm
  rcases hj with rfl | rfl | ⟨h6, hlt⟩
  · exact ⟨{ h with version := h.version ^^^ (1#8 <<< k) }, p, t0, t1, rfl, rfl, rfl, hbody (i := 0) (by simp [crcBody])⟩
  · exact ⟨{ h with msgType := h.msgType ^^^ (1#8 <<< k) }, p, t0, t1, rfl, rfl, rfl, hbody (i := 1) (by simp [crcBody])⟩
  · obtain ⟨i, rfl⟩ := Nat.exists_eq_add_of_le h6
    have hflip := flipBit_wireFrame_after_header cfg h p t0 t1 i k
    rcases Nat.lt_or_ge i p.length with hi | hi
    · rw [flipBit_append_left hi] at hflip
      have hpay : flipBit (crcBody h p) (4 + i) k = crcBody h (flipBit p i k) := flipBit_append_right ..
      refine ⟨h, flipBit p i k, t0, t1, hflip.trans (wireFrame_eq_append ..).symm, rfl, by simp [flipBit], ?_⟩
      exact hpay ▸ hbody (i := 4 + i) (by simp [crcBody]; omega)
    · obtain ⟨m, rfl⟩ := Nat.exists_eq_add_of_le hi
      rw [flipBit_append_right] at hflip
      have hm : m = 0 ∨ m = 1 := by
        simp only [wireFrame, crcBody, List.length_append, List.length_cons, List.length_nil] at hlt
        omega
      rcases hm with rfl | rfl
      · refine ⟨h, p, t0 ^^^ (1#8 <<< k), t1, hflip.trans (wireFrame_eq_append ..).symm, rfl, rfl, ?_⟩
        rw [← hcrc, ne_eq, be16_inj]
        exact fun hsame => xor_one_shiftLeft_ne hk t0 hsame.1
      · refine ⟨h, p, t0, t1 ^^^ (1#8 <<< k), hflip.trans (wireFrame_eq_append ..).symm, rfl, rfl, ?_⟩
        rw [← hcrc, ne_eq, be16_inj]
        exact fun hsame => xor_one_shiftLeft_ne hk t1 hsame.2

/-! ## What follows a marker, as the source reads it -/

/-- The stream ends before the last byte of the frame it began (R177's none-result of a short stream). -/
def EndsInBody (bs : List Byte) : Prop :=
  ∃ (h : Header) (p : List Byte) (t0 : Byte), (be16 h.lenHi h.lenLo).toNat = p.length ∧ bs <+: crcBody h p ++ [t0]

theorem exists_header_prefix {bs : List Byte} (h : bs.length < 4) : ∃ h : Header, bs <+: h.bytes := by
  match bs, h with
  | [], _ => exact ⟨⟨0, 0, 0, 0⟩, List.nil_prefix⟩
  | [v], _ => exact ⟨⟨v, 0, 0, 0⟩, by simp [Header.bytes]⟩
  | [v, t], _ => exact ⟨⟨v, t, 0, 0⟩, by simp [Header.bytes]⟩
  | [v, t, l], _ => exact ⟨⟨v, t, l, 0⟩, by simp [Header.bytes]⟩

theorem exists_header_append {bs : List Byte} (h : 4 ≤ bs.length) : ∃ (h : Header) (rest : List Byte),
    bs = h.bytes ++ rest := by
  match bs, h with
  | v :: t :: l :: m :: rest, _ => exact ⟨⟨v, t, l, m⟩, rest, rfl⟩

theorem exists_prefix_concat {n : Nat} {bs : List Byte} (h : bs.length ≤ n + 1) :
    ∃ (p : List Byte) (b : Byte), p.length = n ∧ bs <+: p ++ [b] := by
  have hlen : (bs ++ List.replicate (n + 1 - bs.length) 0#8).length = n + 1 := by simp; omega
  rcases List.eq_nil_or_concat' (bs ++ List.replicate (n + 1 - bs.length) 0#8) with hnil | ⟨p, b, hpb⟩
  · simp [hnil] at hlen
  · exact ⟨p, b, by simpa [hpb] using hlen, hpb ▸ List.prefix_append ..⟩

theorem endsInBody_of_prefix_header {bs : List Byte} {h : Header} (hbs : bs <+: h.bytes) : EndsInBody bs := by
  refine ⟨h, List.replicate (be16 h.lenHi h.lenLo).toNat 0#8, 0#8, List.length_replicate.symm, hbs.trans ?_⟩
  exact ⟨List.replicate (be16 h.lenHi h.lenLo).toNat 0#8 ++ [0#8], by simp [crcBody, Header.bytes]⟩

theorem endsInBody_of_short {h : Header} {rest : List Byte} (hlen : rest.length ≤ (be16 h.lenHi h.lenLo).toNat + 1) :
    EndsInBody (h.bytes ++ rest) := by
  obtain ⟨p, t0, hp, hpre⟩ := exists_prefix_concat hlen
  exact ⟨h, p, t0, hp.symm, by simpa [crcBody, Header.bytes] using hpre⟩

theorem parseBody_of_length_lt_four {cfg : Cfg} {bs : List Byte} (h : bs.length < 4) : parseBody cfg bs = none := by
  unfold parseBody
  split
  next => simp at h; omega
  next => rfl

theorem parseBody_of_short {cfg : Cfg} {h : Header} {rest : List Byte}
    (hlen : rest.length ≤ (be16 h.lenHi h.lenLo).toNat + 1) : parseBody cfg (h.bytes ++ rest) = none := by
  simp only [parseBody, Header.bytes, List.cons_append, List.nil_append]
  split
  next hd =>
    have hdrop := congrArg List.length hd
    rw [List.length_drop, List.length_cons, List.length_cons] at hdrop
    omega
  next => rfl

theorem parseBody_of_frame {cfg : Cfg} {h : Header} {p : List Byte} (hlen : (be16 h.lenHi h.lenLo).toNat = p.length)
    (t0 t1 : Byte) (more : List Byte) : parseBody cfg (crcBody h p ++ t0 :: t1 :: more) =
      if be16 t0 t1 = crc16 cfg (crcBody h p) then some (h.msgType, p) else none := by
  unfold crcBody
  simp [parseBody, hlen]

/-- What follows a marker ends too early, and the source returns the none-result, or it begins with a whole frame. -/
theorem parseBody_cases (cfg : Cfg) (bs : List Byte) :
    (parseBody cfg bs = none ∧ EndsInBody bs) ∨
    ∃ (h : Header) (p : List Byte) (t0 t1 : Byte) (more : List Byte), (be16 h.lenHi h.lenLo).toNat = p.length ∧
      bs = crcBody h p ++ t0 :: t1 :: more := by
  rcases Nat.lt_or_ge bs.length 4 with h4 | h4
  · obtain ⟨h, hh⟩ := exists_header_prefix h4
    exact .inl ⟨parseBody_of_length_lt_four h4, endsInBody_of_prefix_header hh⟩
  · obtain ⟨h, rest, rfl⟩ := exists_header_append h4
    rcases Nat.lt_or_ge ((be16 h.lenHi h.lenLo).toNat + 1) rest.length with hlong | hshort
    · obtain ⟨t0, l, hl⟩ := List.exists_cons_of_length_pos (l := rest.drop (be16 h.lenHi h.lenLo).toNat)
        (by rw [List.length_drop]; omega)
      have hllen := congrArg List.length hl
      rw [List.length_drop, List.length_cons] at hllen
      obtain ⟨t1, more, rfl⟩ := List.exists_cons_of_length_pos (l := l) (by omega)
      refine .inr ⟨h, rest.take _, t0, t1, more, (List.length_take_of_le (by omega)).symm, ?_⟩
      rw [← hl]
      simp [crcBody, Header.bytes]
    · exact .inl ⟨parseBody_of_short hshort, endsInBody_of_short hshort⟩

/-- A stream that ends within the frame its marker begins reports nothing. -/
theorem performAll_of_endsInBody {bs : List Byte} {s : State} (hs : s.rx.state = .seekSync0)
    (hcap : 65535 ≤ s.cfg.payloadCap) (hbs : EndsInBody bs) :
    ∃ u, performAll (rxBytes ([s.cfg.sync0, s.cfg.sync1] ++ bs)) s = .next u ∧ u.trace = s.trace := by
  obtain ⟨h, p, t0, hlen, more, hmore⟩ := hbs
  obtain ⟨v, hrun, -⟩ := performAll_frame_but_last t0 hs hlen (by omega)
  rw [List.append_assoc, ← hmore, ← List.append_assoc, rxBytes_append] at hrun
  exact performAll_quiet_of_append hrun rfl

/-- A whole frame reports the verdict on it first, whatever RX events follow, and these complete. -/
theorem performAll_frame_then {h : Header} {p : List Byte} (t0 t1 : Byte) {s : State} (hs : s.rx.state = .seekSync0)
    (hlen : (be16 h.lenHi h.lenLo).toNat = p.length) (hcap : p.length ≤ s.cfg.payloadCap) {es : List Instr}
    (hes : ∀ i ∈ es, i.unit = .rx) :
    ∃ t rest, performAll (rxBytes (wireFrame s.cfg h p t0 t1) ++ es) s = .next t ∧
      newEvents s t = (if be16 t0 t1 = crc16 s.cfg (crcBody h p) then .rxFrameOk h.version h.msgType p
        else .rxCrcErr h.version h.msgType (be16 h.lenHi h.lenLo) (be16 t0 t1) (crc16 s.cfg (crcBody h p))) :: rest := by
  obtain ⟨-, u, hrun, htrace, hst, hidx, -⟩ := decoderClosedForm h p t0 t1 s hs hlen hcap
  obtain ⟨t, ht⟩ := performAll_rx_completes hes (rxMeetsR62_of_seekSync0 u.cfg hst hidx)
  obtain ⟨rest, hrest⟩ := performAll_trace_prefix ht
  refine ⟨t, rest, performAll_append_eq_next.2 ⟨u, hrun, ht⟩, newEvents_of_trace ?_⟩
  rw [← hrest, htrace, List.append_assoc, List.singleton_append]

theorem rxBytes_timeout_unit (bs : List Byte) : ∀ i ∈ rxBytes bs ++ [.rxTimeout], i.unit = .rx := by
  intro i hi
  rcases List.mem_append.1 hi with hi | hi
  · obtain ⟨b, -, rfl⟩ := List.mem_map.1 hi
    rfl
  · rw [List.mem_singleton.1 hi]
    rfl

end Sys2Proof.Machine
end

section
/-! The statements of 42_decoder.md. -/

namespace Sys2Proof.Machine

/-- Settles O29, by induction on the list of frames. -/
theorem decodeOfEncodeGivesTheFrames : Obligations.DecodeOfEncodeGivesTheFrames := by
  unfold Obligations.DecodeOfEncodeGivesTheFrames
  intro fs s hs hfs
  refine ⟨fun f hf => ?_, performAll_buildFrames hs hfs⟩
  obtain ⟨hcap, hp⟩ := hfs f hf
  exact (performAll_buildFrame hs hcap hp).1

/-- Settles O15, from the step of the RX unit in the two sync stages. -/
theorem syncBytesFindTheMarker : Obligations.SyncBytesFindTheMarker := by
  unfold Obligations.SyncBytesFindTheMarker
  intro b s
  constructor
  · intro hs
    rw [exec_rxByte_of_ok (rxStep_seekSync0 hs)]
    by_cases hb : b = s.cfg.sync0
    · simp only [hb, if_true]; rfl
    · simp only [hb, if_false, RxUnit.with_state_self hs]; rfl
  · rintro hs rfl
    exact exec_rxByte_of_ok (rxStep_seekSync1_sync1 hs)

/-- Settles O16, from the step of the RX unit under each setting. -/
theorem wrongSecondSyncByte : Obligations.WrongSecondSyncByte := by
  unfold Obligations.WrongSecondSyncByte
  intro b s hs hb
  refine ⟨fun hm => ?_, fun hm => exec_rxByte_of_ok (rxStep_seekSync1_discard hs hb hm),
    fun hm => exec_rxByte_of_ok (rxStep_seekSync1_report hs hb hm)⟩
  rw [exec_rxByte_of_ok (rxStep_seekSync1_rescan hs hb hm)]
  by_cases h0 : b = s.cfg.sync0
  · simp only [h0, if_true, RxUnit.with_state_self hs]; rfl
  · simp only [h0, if_false]; rfl

/-- Settles O17: storing a header byte sets it in the list of header bytes. -/
theorem headerByteIsStored : Obligations.HeaderByteIsStored := by
  unfold Obligations.HeaderByteIsStored
  exact fun b s hs hi => ⟨s.rx.hdr.put s.rx.idx.toNat b, bytes_put s.rx.hdr b (by omega),
    exec_rxByte_of_ok (rxStep_header_of_le_two hs hi)⟩

/-- Settles O18, by what a complete header leads to. -/
theorem fourthHeaderByteSetsTheLength : Obligations.FourthHeaderByteSetsTheLength := by
  unfold Obligations.FourthHeaderByteSetsTheLength
  intro b s hs hi
  have hstep := rxStep_header_last (cfg := s.cfg) (b := b) hs hi
  refine ⟨fun hcap => ?_, fun hcap h0 => ?_, fun hcap h0 => ?_⟩
  · rw [rxHeaderComplete_of_gt hcap] at hstep
    exact exec_rxByte_of_ok hstep
  · rw [rxHeaderComplete_of_le hcap, if_pos h0] at hstep
    exact exec_rxByte_of_ok hstep
  · rw [rxHeaderComplete_of_le hcap, if_neg h0] at hstep
    exact exec_rxByte_of_ok hstep

/-- Settles O19: the byte is the one cell put into the buffer. -/
theorem payloadByteIsBuffered : Obligations.PayloadByteIsBuffered := by
  unfold Obligations.PayloadByteIsBuffered
  intro b s hs hi hcap
  refine ⟨_, exec_rxByte_of_ok (rxStep_payload hs hi hcap), bufRead_of_bufPut hcap rfl rfl, ?_⟩
  simp only [idx_succ_eq_len_iff hi]
  rfl

/-- Settles O20, by the verdict on the second trailer byte. -/
theorem trailerBytesVerifyTheFrame : Obligations.TrailerBytesVerifyTheFrame := by
  unfold Obligations.TrailerBytesVerifyTheFrame
  intro b s hs
  refine ⟨fun hi => exec_rxByte_of_ok (rxStep_trailer_first hs hi), fun hi => ?_⟩
  have hexec := exec_rxByte_of_ok (rxStep_trailer_second (cfg := s.cfg) (b := b) hs hi)
  refine ⟨fun hx => ?_, fun hx => ?_⟩
  · rw [rxVerify, if_pos hx] at hexec
    exact hexec
  · rw [rxVerify, if_neg hx] at hexec
    exact hexec

/-- Settles O22: in a named state the event is the outcome action. -/
theorem timeoutIsAnOutcomeInEveryState : Obligations.TimeoutIsAnOutcomeInEveryState := by
  unfold Obligations.TimeoutIsAnOutcomeInEveryState
  exact fun s hn => ⟨decode_encode .rxTimeout, exec_rxTimeout_of_named hn⟩

/-- Settles O30, by induction on the bytes from the right: the state after them is told by the last one. -/
theorem rescanFindsTheFirstMarker : Obligations.RescanFindsTheFirstMarker := by
  unfold Obligations.RescanFindsTheFirstMarker
  exact fun q s hm _ hs => ⟨performAll_noise hm hs, performAll_noise_marker hm hs⟩

/-- Settles O31: noise before the frame's marker makes no difference. -/
theorem noiseBeforeAFrameIsSkipped : Obligations.NoiseBeforeAFrameIsSkipped := by
  unfold Obligations.NoiseBeforeAFrameIsSkipped
  intro q t p s hm hne hs hq hcap hp
  obtain ⟨-, u, hrun, htrace, -⟩ := performAll_buildFrame (t := t) hs hcap hp
  exact ⟨u, (performAll_noise_skip hm hne hs hq _).trans hrun, htrace⟩

/-- Settles O32: the flipped frame is a frame of the same length with a wrong trailer. -/
theorem flippedBitEndsInCrcErr : Obligations.FlippedBitEndsInCrcErr := by
  unfold Obligations.FlippedBitEndsInCrcErr
  intro t p j k s hpoly hs hcap hp hj hk
  rw [buildFrame_eq_wireFrame] at hj ⊢
  obtain ⟨h, q, t0, t1, hflip, hlen, hq, hne⟩ := flipBit_wireFrame hpoly (be16_hi8_lo8 _) hk hj
  obtain ⟨-, u, hrun, htrace, -⟩ := decoderClosedForm h q t0 t1 s hs
    (by rw [hlen, frameHeader_len_toNat s.cfg t hp, hq]) (hq.trans_le hcap)
  rw [if_neg hne] at htrace
  exact ⟨u, _, hflip ▸ hrun, htrace, rfl⟩

/-- Settles O33: the scan skips what the source's synchronization skips; after the marker the stream ends early, and the
timeout comes first, or a whole frame is there, and its verdict comes first. -/
theorem decoderRefinesTheSourcesParser : Obligations.DecoderRefinesTheSourcesParser := by
  unfold Obligations.DecoderRefinesTheSourcesParser
  intro bs s hm hcap hs
  have hnamed : s.rx.state.isNamed = true := by rw [hs]; rfl
  cases hmark : findMarker s.cfg bs with
  | none =>
    have hparse : parseFrame s.cfg bs = none := by rw [parseFrame, hmark]; rfl
    obtain ⟨u, hrun⟩ := performAll_of_findMarker_none hm hs hmark
    obtain ⟨t, st, ht, hev⟩ := performAll_timeout_of_quiet hnamed hrun rfl
    rw [hparse]
    exact ⟨t, _, [], ht, hev, rfl, rfl⟩
  | some body =>
    have hparse : parseFrame s.cfg bs = parseBody s.cfg body := by rw [parseFrame, hmark]; rfl
    have hskip := performAll_of_findMarker_some hm hs hmark
    rw [hparse]
    rcases parseBody_cases s.cfg body with ⟨hnone, hends⟩ | ⟨h, p, t0, t1, more, hlen, rfl⟩
    · obtain ⟨u, hrun, hquiet⟩ := performAll_of_endsInBody hs hcap.ge hends
      obtain ⟨t, st, ht, hev⟩ := performAll_timeout_of_quiet hnamed (hskip.trans hrun) hquiet
      rw [hnone]
      exact ⟨t, _, [], ht, hev, rfl, rfl⟩
    · have hsplit : rxBytes ([s.cfg.sync0, s.cfg.sync1] ++ (crcBody h p ++ t0 :: t1 :: more)) ++ [.rxTimeout] =
          rxBytes (wireFrame s.cfg h p t0 t1) ++ (rxBytes more ++ [.rxTimeout]) := by
        simp [wireFrame]
      obtain ⟨t, rest, ht, hev⟩ := performAll_frame_then t0 t1 hs hlen (by omega) (rxBytes_timeout_unit more)
      refine ⟨t, _, rest, ?_, hev, ?_⟩
      · rw [performAll_append, hskip, ← performAll_append, hsplit, ht]
      · rw [parseBody_of_frame hlen]
        by_cases hcrc : be16 t0 t1 = crc16 s.cfg (crcBody h p)
        · rw [if_pos hcrc, if_pos hcrc]; exact ⟨_, rfl⟩
        · rw [if_neg hcrc, if_neg hcrc]; exact ⟨rfl, rfl⟩

end Sys2Proof.Machine
end

section
/-! SUPPORT. The two ways a word is malformed, by its `OP` and by the rows of the opcode map (30_encoding.md R103, R104). -/

namespace Sys2Proof.Machine

theorem opField_toNat (w : EventWord) : (opField w).toNat = w.toNat / 2 ^ 28 := by
  have hw : w.toNat < 2 ^ 32 := w.isLt
  rw [opField, BitVec.extractLsb'_toNat, Nat.shiftRight_eq_div_pow]
  omega

/-- A defined `OP` is never answered as a reserved one. -/
theorem eventIf_ne_reservedOp (z : Bool) (i : Instr) : eventIf z i ≠ .malformed .reservedOp := by
  cases z <;> simp [eventIf]

theorem decode_eq_reservedOp_iff (w : EventWord) : decode w = .malformed .reservedOp ↔ 8 ≤ w.toNat / 2 ^ 28 := by
  rw [← opField_toNat]
  unfold decode
  split
  case h_9 => exact iff_of_true rfl (by grind)
  all_goals
    rename_i hop
    simp [eventIf_ne_reservedOp, hop]

/-- A word is malformed, for one reason or the other, exactly when it matches no row (R101). -/
theorem exists_decode_eq_malformed_iff (w : EventWord) :
    (∃ why, decode w = .malformed why) ↔ ∀ r ∈ opcodeMap, ¬ r.matchesWord w := by
  obtain ⟨hrow, hcomplete, -⟩ := opcodeMapIsCompleteAndDisjoint
  refine ⟨fun ⟨why, hd⟩ r hr hmatch => ?_, hcomplete w⟩
  obtain ⟨i, hi, -⟩ := (hrow r hr w).1 hmatch
  cases hd.symm.trans hi

theorem decode_eq_mustBeZero_iff (w : EventWord) :
    decode w = .malformed .mustBeZero ↔ w.toNat / 2 ^ 28 < 8 ∧ ∀ r ∈ opcodeMap, ¬ r.matchesWord w := by
  rw [← Nat.not_le, ← decode_eq_reservedOp_iff, ← exists_decode_eq_malformed_iff]
  constructor
  · intro hd
    exact ⟨by simp [hd], _, hd⟩
  · rintro ⟨hne, why, hd⟩
    cases why with
    | reservedOp => exact absurd hd hne
    | mustBeZero => exact hd

end Sys2Proof.Machine
end

section
/-! The statements of 43_control.md. -/

namespace Sys2Proof.Machine

/-- Settles O6: a word is malformed exactly when it matches no row, and its `OP` says for which reason. -/
theorem malformedWordOnlyRaisesUsageError : Obligations.MalformedWordOnlyRaisesUsageError := by
  unfold Obligations.MalformedWordOnlyRaisesUsageError
  exact ⟨decode_eq_reservedOp_iff, decode_eq_mustBeZero_iff, fun _ _ s hd => applyWord_malformed hd s⟩

/-- Settles O36: the two words are the events' encodings. -/
theorem controlEventsTouchOnlyTheUsageFlags : Obligations.ControlEventsTouchOnlyTheUsageFlags := by
  unfold Obligations.ControlEventsTouchOnlyTheUsageFlags
  exact fun s => ⟨decode_encode .nop, exec_nop s, decode_encode .errClr, exec_errClr s⟩

end Sys2Proof.Machine
end

section
/-! SUPPORT. What one event word reports, and that every event completes in a state R62 allows (60_exceptions.md R223,
R227). -/

namespace Sys2Proof.Machine

/-! ## Reports -/

/-- An event's outputs are one event alone, or none of them is an RX outcome or a usage error. -/
theorem exec_report_cases {i : Instr} {s t : State} (h : exec i s = .next t) :
    (∃ e, newEvents s t = [e]) ∨ ∀ e ∈ newEvents s t, e.isRxOutcome = false ∧ e.isUsageErr = false := by
  rcases exec_outcome_cases h with ⟨-, hno⟩ | ⟨u, o, -, hev, -⟩
  · rcases exec_usage_cases h with ⟨-, rfl⟩ | ⟨-, c, rfl⟩ | ⟨-, -, hnu⟩
    · exact .inr (by simp [newEvents, clearUsage])
    · exact .inl ⟨_, newEvents_of_trace (raiseUsage_trace ..)⟩
    · exact .inr fun e he => ⟨hno e he, hnu e he⟩
  · exact .inl ⟨_, hev⟩

/-- An event word adds to the trace, and what it adds is one event alone or holds no RX outcome and no usage error. -/
theorem applyWord_report_cases {w : EventWord} {s t : State} (h : applyWord w s = .next t) :
    t.trace = s.trace ++ newEvents s t ∧
      ((∃ e, newEvents s t = [e]) ∨ ∀ e ∈ newEvents s t, e.isRxOutcome = false ∧ e.isUsageErr = false) := by
  cases hd : decode w with
  | event i =>
    rw [applyWord_event hd] at h
    exact ⟨exec_trace h, exec_report_cases h⟩
  | malformed why =>
    rw [applyWord_malformed hd] at h
    cases h
    rw [newEvents_of_trace (raiseUsage_trace ..)]
    exact ⟨raiseUsage_trace .., .inl ⟨_, rfl⟩⟩

/-! ## Completion -/

/-- Where `tx_rem` agrees with `tx_state`, every TX event completes: outside its state it is a usage error. -/
theorem exec_tx_completes {i : Instr} (hi : i.unit = .tx) {s : State} (hs : TxMeetsR62 s.tx) :
    ∃ t, exec i s = .next t := by
  cases i <;> simp only [Instr.unit, reduceCtorEq] at hi <;> cases hst : s.tx.state
  case txStart.idle => exact ⟨_, exec_txStart_of_idle hst⟩
  case txStart.payload => exact ⟨_, exec_txStart_of_payload hst⟩
  case txByte.idle => exact ⟨_, exec_txByte_of_idle hst⟩
  case txByte.payload =>
    have howed : s.tx.rem ≠ 0#16 := fun h0 => by cases hst.symm.trans (hs.2 h0)
    exact ⟨_, exec_txByte_of_payload hst howed⟩

/-- In a state R62 allows, every event completes (R223). -/
theorem MeetsR62.exec_completes {s : State} (hs : MeetsR62 s) (i : Instr) : ∃ t, exec i s = .next t := by
  obtain ⟨hrx, htx, -⟩ := (meetsR62_iff s).1 hs
  cases hi : i.unit with
  | rx => exact exec_rx_completes hi hrx
  | tx => exact exec_tx_completes hi htx
  | crc => cases i <;> simp only [Instr.unit, reduceCtorEq] at hi <;> exact ⟨_, rfl⟩
  | control => cases i <;> simp only [Instr.unit, reduceCtorEq] at hi <;> exact ⟨_, rfl⟩

end Sys2Proof.Machine
end

section
/-! SUPPORT. Which of a cycle's requests it performs, and what they leave in the registers (30_encoding.md R111 to R113;
60_exceptions.md R230 to R233). -/

namespace Sys2Proof.Machine

/-! ## Inputs that do not matter -/

/-- A step whose only input is a clock cycle. The check of R62 sees no input. -/
theorem step_withCycle (s : State) (p : PortIn) : step (s.withCycle p) =
    if s.cfg.legal then
      if p.rst then .next (resetEdge (s.setInput [])) else unlessBroken s (eventEdge p (s.setInput []))
    else .refused .illegalConfig := rfl

/-- Under reset no other input matters (R230). -/
theorem step_withCycle_congr_of_rst (s : State) {p q : PortIn} (hp : p.rst = true) (hq : q.rst = true) :
    step (s.withCycle p) = step (s.withCycle q) := by
  rw [step_withCycle, step_withCycle, if_pos hp, if_pos hq]

/-- Inputs with the same reset that ask for the same events and the same edge give the same step. -/
theorem step_withCycle_congr {s : State} {p q : PortIn} (hrst : p.rst = q.rst)
    (hevents : portEvents p (s.setInput []) = portEvents q (s.setInput [])) (hedge : edgePorts p = edgePorts q) :
    step (s.withCycle p) = step (s.withCycle q) := by
  rw [step_withCycle, step_withCycle, eventEdge, eventEdge, hrst, hevents, hedge]

/-- Beside a byte, a timeout is not performed (R113, R231). -/
theorem portEvents_without_timeout {p : PortIn} (hv : p.rxiValid = true) (s : State) :
    portEvents p s = portEvents { p with rxiTimeout := false } s := by
  have hrx : rxEvents p = rxEvents { p with rxiTimeout := false } := by simp [rxEvents, eventWhen, hv]
  exact congrArg (_ ++ ·) hrx

/-- Beside a start request, a payload byte is not performed (R112, R232). -/
theorem portEvents_without_byte {p : PortIn} (hv : p.txStartValid = true) (s : State) :
    portEvents p s = portEvents { p with txPlValid := false } s := by
  have htx : txEvents p s = txEvents { p with txPlValid := false } s := by
    simp [txEvents, eventWhen, txPlReady, txStartReady, hv]
  exact congrArg (_ ++ · ++ rxEvents p) htx

/-! ## The RX event -/

theorem rxEvents_of_byte {p : PortIn} (hv : p.rxiValid = true) : rxEvents p = [.rxByte p.rxiData] := by
  simp [rxEvents, eventWhen, hv]

theorem rxEvents_of_timeout {p : PortIn} (hv : p.rxiValid = false) (ht : p.rxiTimeout = true) :
    rxEvents p = [.rxTimeout] := by
  simp [rxEvents, eventWhen, hv, ht]

theorem rxEvents_of_none {p : PortIn} (hv : p.rxiValid = false) (ht : p.rxiTimeout = false) : rxEvents p = [] := by
  simp [rxEvents, eventWhen, hv, ht]

/-! ## The usage flags -/

section
variable {p : PortIn} {s a b : State} (l : List Input)

/-- A usage error of the TX event wins over `err_clr` (R233). -/
theorem afterCycle_usage_of_raiseUsage {w : EventWord} {c : UsageCode} (ha : a = raiseUsage w c s) :
    (afterCycle p s a b l).usage = { err := true, code := c } := by
  have herr : (newEvents s a).any OutEvent.isUsageErr = true := by
    rw [ha, newEvents_of_trace (raiseUsage_trace ..)]
    rfl
  rw [afterCycle, if_pos herr, ha, raiseUsage_usage]

/-- Without a usage error, `err_clr` alone decides over the flags. -/
theorem afterCycle_usage_of_no_usageErr
    (hno : (newEvents s (afterCycle p s a b l)).any OutEvent.isUsageErr = false) :
    (afterCycle p s a b l).usage = if p.errClr then { err := false, code := .none } else s.usage := by
  rw [newEvents_afterCycle, List.any_append, Bool.or_eq_false_iff] at hno
  obtain ⟨htx, -⟩ := hno
  rw [afterCycle, htx]
  rfl

end

end Sys2Proof.Machine
end

section
/-! The statements of 60_exceptions.md. -/

namespace Sys2Proof.Machine

/-- Settles O26: what a word adds to the trace is one event alone, or holds nothing the filter keeps. -/
theorem atMostOneReportPerEvent : Obligations.AtMostOneReportPerEvent := by
  unfold Obligations.AtMostOneReportPerEvent
  intro w s t h
  obtain ⟨htrace, hcases⟩ := applyWord_report_cases h
  refine ⟨⟨_, htrace.symm⟩, ?_⟩
  rcases hcases with ⟨e, he⟩ | hnone
  · rw [he]
    exact List.length_filter_le ..
  · rw [List.filter_eq_nil_iff.2 fun e he => by simp [hnone e he]]
    exact Nat.zero_le 1

/-- Settles O40: each unit's part of R62 lets its events complete; a malformed word is a usage error in every state. -/
theorem everyEventCompletes : Obligations.EveryEventCompletes := by
  unfold Obligations.EveryEventCompletes
  intro s hs
  refine ⟨hs.exec_completes, fun w => ?_⟩
  cases hd : decode w with
  | event i =>
    rw [applyWord_event hd]
    exact hs.exec_completes i
  | malformed why => exact ⟨_, applyWord_malformed hd s⟩

/-- Settles O53: an input that loses changes neither the events of the cycle nor its edge; the registers a cycle leaves
are those of its RX event, its CRC events, and its TX event with `err_clr` before it. -/
theorem sameCyclePriorities : Obligations.SameCyclePriorities := by
  unfold Obligations.SameCyclePriorities
  intro s p q
  refine ⟨step_withCycle_congr_of_rst s, fun hv => step_withCycle_congr rfl (portEvents_without_timeout hv _) rfl,
    fun hv => step_withCycle_congr rfl (portEvents_without_byte hv _) rfl, fun t hr h => ?_⟩
  obtain ⟨a, b, hev, rfl⟩ := step_withCycle_eq_next hr h
  have hrx := hev.rx
  have htx := hev.tx
  rw [hev.filter_isRxOutcome]
  refine ⟨fun hv => ?_, fun hv ht => ?_, fun hv ht => ?_, fun hi => ?_, fun hi => ?_, fun hv hready hst => ?_,
    fun hv hready hst => ?_, afterCycle_usage_of_no_usageErr []⟩
  · rw [rxEvents_of_byte hv, performAll_singleton] at hrx
    exact ⟨b, hrx, rfl, rfl, rfl⟩
  · rw [rxEvents_of_timeout hv ht, performAll_singleton] at hrx
    exact ⟨b, hrx, rfl, rfl, rfl⟩
  · rw [rxEvents_of_none hv ht] at hrx
    cases hrx
    exact ⟨rfl, rfl, newEvents_self s⟩
  · simp [afterCycle, afterControls, hi]
  · simp [afterCycle, afterControls, hi]
  · rw [txEvents_of_start hv hready, performAll_singleton, exec_txStart_of_payload hst] at htx
    cases htx
    exact afterCycle_usage_of_raiseUsage [] rfl
  · rw [txEvents_of_byte hv hready, performAll_singleton, exec_txByte_of_idle hst] at htx
    cases htx
    exact afterCycle_usage_of_raiseUsage [] rfl

end Sys2Proof.Machine
end

section
/-! SUPPORT. What a reset edge leaves (70_reset_and_hazards.md R250, R251). -/

namespace Sys2Proof.Machine

/-- A reset cycle is taken from every state, R62 met or not (R230, R253). -/
theorem step_of_input_reset {s : State} {p : PortIn} {rest : List Input} (hl : s.cfg.legal = true)
    (hi : s.input = .cycle p :: rest) (hr : p.rst = true) : step s = .next (resetEdge (s.setInput rest)) := by
  rw [step_of_legal hl, takeInput, hi]
  exact if_pos hr

theorem newEvents_resetEdge (s : State) (l : List Input) : newEvents s (resetEdge (s.setInput l)) = [] :=
  newEvents_self s

/-- After reset every cell below the capacity is unspecified: it reads as the new draw. -/
theorem bufRead_resetEdge (s : State) {a : Nat} (ha : a < s.cfg.payloadCap) :
    bufRead (resetEdge s).cfg (resetEdge s).rx a = Config.bufDraw (resetEdge s).rx.bufSeed a :=
  if_pos ha

theorem status_resetEdge (s : State) : status (resetEdge s) = 0#32 := status_resetOf s.cfg

end Sys2Proof.Machine
end

section
/-! SUPPORT. How near the RX unit is to a payload byte and to the end of its frame, and what one byte does to either
(70_reset_and_hazards.md R260, R264). -/

namespace Sys2Proof.Machine

/-! ## The bytes before the payload -/

/-- `RX_BYTE` events that complete before one can meet `PAYLOAD`: the rest of the two sync bytes and the four header bytes.
The trailer's last byte leads back to the sync bytes. -/
def bytesBeforePayload (u : RxUnit) : Nat :=
  match u.state with
  | .seekSync0 => 6
  | .seekSync1 => 5
  | .header => 4 - u.idx.toNat
  | .payload => 0
  | .trailer => 6
  | .reserved5 => 0
  | .reserved6 => 0
  | .reserved7 => 0

theorem state_ne_payload_of_bytesBeforePayload_pos {u : RxUnit} (h : 0 < bytesBeforePayload u) :
    u.state ≠ .payload := by
  intro hs
  simp [bytesBeforePayload, hs] at h

theorem bytesBeforePayload_le_six (u : RxUnit) : bytesBeforePayload u ≤ 6 := by
  unfold bytesBeforePayload
  split <;> omega

/-- One byte brings the payload at most one byte nearer. -/
theorem bytesBeforePayload_le_rxStep_add_one {cfg : Cfg} {b : Byte} {u v : RxUnit} {o : Option RxOutcome}
    (h : rxStep cfg b u = .ok (v, o)) : bytesBeforePayload u ≤ bytesBeforePayload v + 1 := by
  rcases rxStep_ok h with ⟨hs, -, rfl⟩ | ⟨hs, -, -, rfl⟩ | ⟨hs, -, hv⟩ | ⟨hs, hv⟩ | ⟨hs, -⟩ | ⟨hs, hv⟩
  · by_cases hb : b = cfg.sync0 <;> simp [bytesBeforePayload, hb, hs]
  · simp [bytesBeforePayload, hs]
  · rcases rxSync1Mismatch_cases hv with ⟨-, rfl | rfl⟩ | ⟨-, rfl, -⟩ <;> simp [bytesBeforePayload, hs]
  · obtain ⟨hi, ⟨hne, -, rfl⟩ | ⟨hlast, -⟩⟩ := rxHeader_ok hv
    · have hsucc : (u.idx + 1#16).toNat = u.idx.toNat + 1 := by bv_omega
      simp only [bytesBeforePayload, hs, hsucc]
      omega
    · have hthree : u.idx.toNat = 3 := by bv_omega
      simp [bytesBeforePayload, hs, hthree]
  · simp [bytesBeforePayload, hs]
  · rcases rxTrailer_ok hv with ⟨-, -, rfl⟩ | ⟨-, rfl, -⟩ <;> simp [bytesBeforePayload, hs]

/-- After an outcome the payload is as far as it can be. -/
theorem bytesBeforePayload_le_exec_add_one {b : Byte} {s t : State} (h : exec (.rxByte b) s = .next t) :
    bytesBeforePayload s.rx ≤ bytesBeforePayload t.rx + 1 := by
  obtain ⟨u, o, hstep, rfl⟩ := exec_rxByte_eq_next.1 h
  cases o with
  | none => exact bytesBeforePayload_le_rxStep_add_one hstep
  | some o => exact (bytesBeforePayload_le_six s.rx).trans (Nat.le_succ 6)

/-- Bytes that cannot reach beyond the header write no cell. -/
theorem performAll_rxBytes_bufRead {bs : List Byte} {s t : State} (hlen : bs.length ≤ bytesBeforePayload s.rx)
    (h : performAll (rxBytes bs) s = .next t) (a : Nat) : bufRead t.cfg t.rx a = bufRead s.cfg s.rx a := by
  induction bs generalizing s with
  | nil => cases h; rfl
  | cons b bs ih =>
    obtain ⟨u, hu, ht⟩ := performAll_cons_eq_next.1 h
    rw [List.length_cons] at hlen
    have hnext := bytesBeforePayload_le_exec_add_one hu
    have hst := state_ne_payload_of_bytesBeforePayload_pos (u := s.rx) (by omega)
    calc bufRead t.cfg t.rx a
      _ = bufRead u.cfg u.rx a := ih (by omega) ht
      _ = bufRead s.cfg s.rx a := exec_bufRead hu fun ⟨_, hp, _⟩ => hst hp

/-! ## The bytes a frame still owes -/

/-- The RX unit is in a frame, its counters in range: R62 items 3 to 5 without the CRC, which decides only how the frame
ends. -/
def InFrame (cfg : Cfg) (u : RxUnit) : Prop :=
  match u.state with
  | .seekSync0 => False
  | .seekSync1 => False
  | .header => u.idx.toNat ≤ 3
  | .payload => u.len.toNat ≤ cfg.payloadCap ∧ u.idx.toNat < u.len.toNat
  | .trailer => u.idx.toNat ≤ 1
  | .reserved5 => False
  | .reserved6 => False
  | .reserved7 => False

/-- The most bytes the frame can still take: while its length is not known, that of the longest. -/
def bytesOwed (u : RxUnit) : Nat :=
  match u.state with
  | .seekSync0 => 0
  | .seekSync1 => 0
  | .header => 65541 - u.idx.toNat
  | .payload => u.len.toNat - u.idx.toNat + 2
  | .trailer => 2 - u.idx.toNat
  | .reserved5 => 0
  | .reserved6 => 0
  | .reserved7 => 0

theorem InFrame.bytesOwed_pos {cfg : Cfg} {u : RxUnit} (h : InFrame cfg u) : 0 < bytesOwed u := by
  unfold InFrame at h
  unfold bytesOwed
  cases hs : u.state <;> simp only [hs] at h ⊢ <;> omega

/-- The byte leaves the unit in the frame with fewer bytes owed, or ends the frame with an outcome. -/
def Advances (cfg : Cfg) (u v : RxUnit) : Option RxOutcome → Prop
  | none => InFrame cfg v ∧ bytesOwed v < bytesOwed u
  | some _ => True

/-- The fourth header byte: a frame too long ends, any other owes its payload and two trailer bytes at most. -/
theorem rxHeaderComplete_advances {cfg : Cfg} {u v w : RxUnit} {o : Option RxOutcome} (hw : 65538 ≤ bytesOwed w)
    (h : (v, o) = rxHeaderComplete cfg u) : Advances cfg w v o := by
  rcases rxHeaderComplete_cases h with ⟨rfl, -⟩ | ⟨rfl, -, rfl⟩ | ⟨rfl, h0, hcap, rfl⟩
  · trivial
  · exact ⟨Nat.zero_le 1, Nat.lt_of_lt_of_le (by decide : 2 < 65538) hw⟩
  · have hpos : (be16 u.hdr.lenHi u.hdr.lenLo).toNat ≠ 0 := fun h => h0 (BitVec.eq_of_toNat_eq h)
    have hlt := (be16 u.hdr.lenHi u.hdr.lenLo).isLt
    refine ⟨⟨hcap, Nat.pos_of_ne_zero hpos⟩, ?_⟩
    show (be16 u.hdr.lenHi u.hdr.lenLo).toNat - 0 + 2 < bytesOwed w
    omega

/-- In a frame every byte completes, and advances it (R164 to R173). -/
theorem InFrame.rxStep_advances {cfg : Cfg} {u : RxUnit} (h : InFrame cfg u) (b : Byte) :
    ∃ v o, rxStep cfg b u = .ok (v, o) ∧ Advances cfg u v o := by
  unfold InFrame at h
  cases hs : u.state <;> simp only [hs] at h
  case header =>
    by_cases h3 : u.idx = 3#16
    · exact ⟨_, _, rxStep_header_last hs h3, rxHeaderComplete_advances (by simp [bytesOwed, hs, h3]) rfl⟩
    · have hsucc : (u.idx + 1#16).toNat = u.idx.toNat + 1 := by bv_omega
      refine ⟨_, _, rxStep_header_of_le_two hs (by bv_omega), ?_⟩
      simp only [Advances, InFrame, bytesOwed, hs, hsucc]
      bv_omega
  case payload =>
    obtain ⟨hcap, hi⟩ := h
    have hsucc : (u.idx + 1#16).toNat = u.idx.toNat + 1 := by bv_omega
    refine ⟨_, _, rxStep_payload hs hi (by omega), ?_⟩
    by_cases hlast : u.idx + 1#16 = u.len
    · simp only [Advances, InFrame, bytesOwed, hs, hlast, if_true, BitVec.toNat_ofNat]
      omega
    · have hmore := mt (idx_succ_eq_len_iff hi).2 hlast
      simp only [Advances, InFrame, bytesOwed, hs, hlast, if_false, hsucc]
      omega
  case trailer =>
    by_cases h0 : u.idx = 0#16
    · exact ⟨_, _, rxStep_trailer_first hs h0, by simp [Advances, InFrame, bytesOwed, hs, h0]⟩
    · exact ⟨_, _, rxStep_trailer_second hs (by bv_omega), trivial⟩

theorem InFrame.exec_advances {s : State} (h : InFrame s.cfg s.rx) (b : Byte) :
    ∃ t, exec (.rxByte b) s = .next t ∧
      (t.rx.state = .seekSync0 ∨ (InFrame t.cfg t.rx ∧ bytesOwed t.rx < bytesOwed s.rx)) := by
  obtain ⟨v, o, hstep, hadv⟩ := h.rxStep_advances b
  refine ⟨_, exec_rxByte_of_ok hstep, ?_⟩
  cases o with
  | none => exact .inr hadv
  | some o => exact .inl rfl

/-- As many bytes as a frame can still take are enough to end it. -/
theorem InFrame.exists_end {bs : List Byte} {s : State} (h : InFrame s.cfg s.rx) (hlen : bytesOwed s.rx ≤ bs.length) :
    ∃ k, 0 < k ∧ k ≤ bs.length ∧ ∃ t, performAll (rxBytes (bs.take k)) s = .next t ∧ t.rx.state = .seekSync0 := by
  induction bs generalizing s with
  | nil => exact absurd hlen (Nat.not_le.2 h.bytesOwed_pos)
  | cons b bs ih =>
    rw [List.length_cons] at hlen ⊢
    obtain ⟨u, hu, hend | ⟨hin, hless⟩⟩ := h.exec_advances b
    · exact ⟨1, Nat.one_pos, Nat.le_add_left 1 _, u, performAll_cons_eq_next.2 ⟨u, hu, rfl⟩, hend⟩
    · obtain ⟨k, -, hk, t, ht, hst⟩ := ih hin (by omega)
      exact ⟨k + 1, Nat.succ_pos k, Nat.succ_le_succ hk, t, performAll_cons_eq_next.2 ⟨u, hu, ht⟩, hst⟩

end Sys2Proof.Machine
end

section
/-! SUPPORT. The events a cycle's inputs ask for, and that a cycle completes (70_reset_and_hazards.md R270, R273). -/

namespace Sys2Proof.Machine

/-- The TX event of a cycle without reset, by its inputs and the room in the queue (R112). -/
theorem txEvents_of_no_rst {p : PortIn} (hr : p.rst = false) (s : State) : txEvents p s =
    if p.txStartValid then
      if s.port.txq.length + 8 ≤ s.cfg.txqDepth then [.txStart p.txType p.txLen] else []
    else if p.txPlValid && decide (s.port.txq.length + 3 ≤ s.cfg.txqDepth) then [.txByte p.txPlData] else [] := by
  have hstart : txStartReady p s = decide (s.port.txq.length + 8 ≤ s.cfg.txqDepth) :=
    Bool.eq_iff_iff.2 (by simp [txStartReady_eq_true_iff, hr])
  have hbyte : txPlReady p s = (decide (s.port.txq.length + 3 ≤ s.cfg.txqDepth) && !p.txStartValid) :=
    Bool.eq_iff_iff.2 (by simp [txPlReady_eq_true_iff, hr])
  rw [txEvents, hstart, hbyte]
  cases p.txStartValid <;> simp [eventWhen]

/-- The RX event of a cycle, by its inputs (R113). -/
theorem rxEvents_eq_ite (p : PortIn) :
    rxEvents p = if p.rxiValid then [.rxByte p.rxiData] else if p.rxiTimeout then [.rxTimeout] else [] := by
  rcases rxEvents_cases p with ⟨hv, h⟩ | ⟨hv, ht, h⟩ | ⟨hv, ht, h⟩ <;> simp [*]

/-- In a state R62 allows, every sequence of events completes (R223). -/
theorem MeetsR62.performAll_completes {s : State} (hs : MeetsR62 s) (es : List Instr) :
    ∃ t, performAll es s = .next t := by
  induction es generalizing s with
  | nil => exact ⟨s, rfl⟩
  | cons i es ih =>
    obtain ⟨u, hu⟩ := hs.exec_completes i
    obtain ⟨t, ht⟩ := ih (exec_keeps_meetsR62 hs hu)
    exact ⟨t, performAll_cons_eq_next.2 ⟨u, hu, ht⟩⟩

/-- A cycle without reset is its events and the edge of the cycle-level registers (R273). -/
theorem step_withCycle_of_performAll {p : PortIn} {s u : State} (hl : s.cfg.legal = true) (hm : MeetsR62 s)
    (hr : p.rst = false) (hu : performAll (portEvents p (s.setInput [])) (s.setInput []) = .next u) :
    step (s.withCycle p) = .next (u.setPort (edgePorts p (s.setInput []) u)).nextDraw := by
  rw [step_withCycle, if_pos hl, hr, unlessBroken_of_meets hm]
  exact eventEdge_eq_next.2 ⟨u, hu, rfl⟩

end Sys2Proof.Machine
end

section
/-! The statements of 70_reset_and_hazards.md. -/

namespace Sys2Proof.Machine

/-- Settles O34: from `SEEK_SYNC0` six bytes lie before the payload, and only a byte in `PAYLOAD` writes a cell. -/
theorem firstSixBytesWriteNoCell : Obligations.FirstSixBytesWriteNoCell := by
  unfold Obligations.FirstSixBytesWriteNoCell
  intro bs s t hs hlen h
  have hsix : bytesBeforePayload s.rx = 6 := by simp [bytesBeforePayload, hs]
  exact performAll_rxBytes_bufRead (hlen.trans_eq hsix.symm) h

/-- Settles O35: at the start of a header at most 65541 bytes are owed, and each byte leaves fewer. -/
theorem frameEndsWithin65541Bytes : Obligations.FrameEndsWithin65541Bytes := by
  unfold Obligations.FrameEndsWithin65541Bytes
  intro bs s _ hs hi hlen
  have hin : InFrame s.cfg s.rx := by simp [InFrame, hs, hi]
  have howed : bytesOwed s.rx = 65541 := by simp [bytesOwed, hs, hi]
  rw [← hlen]
  exact hin.exists_end (by rw [howed, hlen])

/-- Settles O59: the events asked for are those of the model's cycle, and in a state R62 allows they complete. -/
theorem everyCycleCompletes : Obligations.EveryCycleCompletes := by
  unfold Obligations.EveryCycleCompletes
  intro s p hl hm
  refine ⟨fun hr => ⟨_, step_of_input_reset hl rfl hr⟩, fun hr => ?_⟩
  obtain ⟨u, hu⟩ := (hm.congr (t := s.setInput []) rfl rfl rfl rfl).performAll_completes (portEvents p (s.setInput []))
  refine ⟨_, u, step_withCycle_of_performAll hl hm hr hu, ?_, rfl⟩
  rw [portEvents, txEvents_of_no_rst hr, rxEvents_eq_ite] at hu
  exact hu

/-- Settles O51, field by field of the reset edge. -/
theorem resetCycleGivesTheResetValues : Obligations.ResetCycleGivesTheResetValues := by
  unfold Obligations.ResetCycleGivesTheResetValues
  intro s p rest hl hi hr
  exact ⟨_, step_of_input_reset hl hi hr, newEvents_resetEdge s rest, rfl, rfl, rfl, rfl, rfl, rfl, rfl, rfl, rfl, rfl, rfl,
    rfl, rfl, fun _ => bufRead_resetEdge _, rfl, status_resetEdge _, rfl, rfl, rfl, rfl, rfl, rfl, rfl, rfl, rfl⟩

/-- Settles O52: the reset edge keeps the trace and what the transport has taken, and drops the rest. -/
theorem resetCycleEmitsNothing : Obligations.ResetCycleEmitsNothing := by
  unfold Obligations.ResetCycleEmitsNothing
  intro s p rest hl hi hr
  exact ⟨_, step_of_input_reset hl hi hr, newEvents_resetEdge s rest, rfl, rfl, rfl, rfl, rfl, rfl, rfl⟩

end Sys2Proof.Machine
end
